-- ==== Sys2Proof/Word.lean ====
section
/-! DEFINITION. The word types of the spec's notation (spec/00_scope.md R8): a byte, a 7-bit device address, an
8-bit register offset. Wider patterns are written `BitVec 16`, `BitVec 32` and `BitVec 64` where they are used. -/

namespace Sys2Proof

/-- A byte: 8 bits, bit 0 the least significant (R8). -/
abbrev Byte := BitVec 8

/-- A 7-bit device address (R5, `DEV_ADDR_BITS`). -/
abbrev DevAddr := BitVec 7

/-- An 8-bit register offset inside a device (R5, `REG_OFFSET_BITS`). -/
abbrev RegOffset := BitVec 8

end Sys2Proof
end

