-- ==== Sys2Proof/Syntax.lean ====
section
/-! DEFINITION. The commands of the engine, one constructor per row of spec/opcode_table.json
(spec/30_encoding.md R43). A command has no operand (R52). -/

namespace Sys2Proof

/-- The seven commands (R43). -/
inductive Instr where
  /-- `INIT_ACC`: initialize the acceleration sensor (R64). -/
  | initAcc
  /-- `READ_ACC`: read and decode one acceleration sample (R72). -/
  | readAcc
  /-- `INIT_ENV`: initialize the humidity/pressure/temperature sensor (R65). -/
  | initEnv
  /-- `LOAD_CAL`: run the calibration loader alone (R67). -/
  | loadCal
  /-- `READ_TEMP`: read and decode one temperature sample, refresh `t_fine` (R74). -/
  | readTemp
  /-- `READ_PRESS`: read and decode one pressure sample (R78). -/
  | readPress
  /-- `READ_HUM`: read and decode one humidity sample (R81). -/
  | readHum
  deriving DecidableEq, Repr

/-- The device handle a command is addressed to (R11, R42 `unit`). -/
inductive Handle where
  /-- The acceleration sensor's handle, unit 1. -/
  | acc
  /-- The humidity/pressure/temperature sensor's handle, unit 2. -/
  | env
  deriving DecidableEq, Repr

/-- Which handle a command belongs to (R43). -/
def Instr.handle : Instr → Handle
  | .initAcc => .acc
  | .readAcc => .acc
  | .initEnv => .env
  | .loadCal => .env
  | .readTemp => .env
  | .readPress => .env
  | .readHum => .env

end Sys2Proof
end

