-- ==== Sys2Proof/Config.lean ====
section
/-! DEFINITION. What an implementation fixes: the constants of spec/00_scope.md R5, the parameters of R6 with
their default column, and the free values the spec leaves under no law (constants without a body, so that
nothing can be proved about which value they are). The parameters are one plain record; a machine state carries
its own (log 1), so a claim over every state is a claim over every parameter value. -/

namespace Sys2Proof

/-- `H_LAYOUT` (R6, R69): where each humidity coefficient byte sits in the 9-byte block. -/
structure HLayout where
  h2Lo : Fin 9
  h2Hi : Fin 9
  h3 : Fin 9
  h4Hi : Fin 9
  h45 : Fin 9
  h5Hi : Fin 9
  h6 : Fin 9
  h1 : Fin 9
  deriving DecidableEq, Repr

/-- The choice of the parameter `fround` (R6, R62). -/
inductive FroundChoice where
  /-- The default: IEEE 754 binary32, round to nearest, ties to even, applied once to the exact rational. -/
  | binary32
  /-- Any other total function from rationals to any other output format with properties P1 to P4, named by a number
  (log 11). -/
  | other (k : Nat)
  deriving DecidableEq, Repr

/-- What a value of an output format stands for (R15, R62). -/
inductive OutNumber where
  | minusInfinity
  | number (q : Rat)
  | plusInfinity
  | notANumber
  deriving DecidableEq, Repr

/-- The order of P2 (R62): that of the numbers, between the infinities; a value that is no number has no place in it. -/
def OutNumber.le : OutNumber → OutNumber → Bool
  | .notANumber, _ => false
  | _, .notANumber => false
  | .minusInfinity, _ => true
  | _, .plusInfinity => true
  | .number p, .number q => decide (p ≤ q)
  | .number _, .minusInfinity => false
  | .plusInfinity, .minusInfinity => false
  | .plusInfinity, .number _ => false

/-- The rationals the engine can hand to `fround` (R62 P4): `raw * 39 / 10000` for an s16 (R73), `T_int / 100` for an s32
shifted right by 8 (R75), `r / 256` for a u32 (R79), `H_int / 1024` for 0 to 102400 (R82). -/
def engineProduces (q : Rat) : Prop :=
  ∃ z : Int,
    (-32768 ≤ z ∧ z ≤ 32767 ∧ q = mkRat (z * 39) 10000) ∨
    (-8388608 ≤ z ∧ z ≤ 8388607 ∧ q = mkRat z 100) ∨
    (0 ≤ z ∧ z ≤ 4294967295 ∧ q = mkRat z 256) ∨
    (0 ≤ z ∧ z ≤ 102400 ∧ q = mkRat z 1024)

/-- An output format given by its conversion from rationals, whose range is the format (R15), with the four properties
that R62 requires of any choice and no more. The defaults show that a conversion can have all four: the format that
holds every rational. -/
structure OutputFormat where
  /-- The conversion: a function of the rational alone (R62). -/
  convert : Rat → OutNumber := .number
  /-- P1. -/
  zero : convert 0 = .number 0 := by rfl
  /-- P2. -/
  monotone : ∀ p q : Rat, p ≤ q → (convert p).le (convert q) = true := by intro p q h; exact decide_eq_true h
  /-- P3: a number of the format, which is one the conversion gives, is converted to itself. -/
  exact : ∀ p q : Rat, convert p = .number q → convert q = .number q := by intro p q h; rfl
  /-- P4. -/
  bound : ∀ q : Rat, engineProduces q →
    ∃ v, convert q = .number v ∧ |v - q| ≤ |q| * mkRat 1 16777216 := by
      intro q h
      exact ⟨q, rfl, by rw [sub_self, abs_zero]; exact mul_nonneg (abs_nonneg q) (by decide)⟩
  deriving Inhabited

/-- The parameters of R6, under the spec's names. -/
structure Params where
  envAddr : DevAddr
  accAddr : DevAddr
  envRegId : RegOffset
  envIdValue : Byte
  envRegReset : RegOffset
  envResetCmd : Byte
  envRegConfig : RegOffset
  envConfigByte : Byte
  envModeWrites : List (RegOffset × Byte)
  calTpBase : RegOffset
  calHBase : RegOffset
  hLayout : HLayout
  envRegPress : RegOffset
  envRegTemp : RegOffset
  envRegHum : RegOffset
  accRegId : RegOffset
  accIdValue : Byte
  accRegPower : RegOffset
  accPowerByte : Byte
  accRegData : RegOffset
  fround : FroundChoice
  h45SignExtend : Bool
  deriving DecidableEq, Repr

/-- The default `H_LAYOUT` (R6). DESIGN CHOICE of the spec for `h1` (D20). -/
def HLayout.default : HLayout :=
  { h2Lo := 0, h2Hi := 1, h3 := 2, h4Hi := 3, h45 := 4, h5Hi := 5, h6 := 6, h1 := 7 }

/-- The default column of R6: what a model uses when its user gives nothing else (log 1). -/
def Params.default : Params :=
  { envAddr := 0x76#7, accAddr := 0x53#7
    envRegId := 0xD0#8, envIdValue := 0x60#8
    envRegReset := 0xE0#8, envResetCmd := 0xB6#8
    envRegConfig := 0xF5#8, envConfigByte := 0x10#8
    envModeWrites := [(0xF2#8, 0x01#8), (0xF4#8, 0x27#8)]
    calTpBase := 0x88#8, calHBase := 0xE1#8, hLayout := HLayout.default
    envRegPress := 0xF7#8, envRegTemp := 0xFA#8, envRegHum := 0xFD#8
    accRegId := 0x00#8, accIdValue := 0xE5#8
    accRegPower := 0x2D#8, accPowerByte := 0x08#8, accRegData := 0x32#8
    fround := .binary32, h45SignExtend := false }

namespace Config

/-- `ENV_RESET_DELAY` (R5): the settle delay handed to `wait(milliseconds)`. -/
def envResetDelay : Nat := 100

/-- `CAL_TP_LEN` (R5). -/
def calTpLen : Nat := 24

/-- `CAL_H_LEN` (R5). -/
def calHLen : Nat := 9

/-- `ACC_SAMPLE_LEN` (R5). -/
def accSampleLen : Nat := 6

/-- `TP_SAMPLE_LEN` (R5). -/
def tpSampleLen : Nat := 3

/-- `H_SAMPLE_LEN` (R5). -/
def hSampleLen : Nat := 2

/-- What a byte of the reference sensor memory reads as where nothing is listed: image M1 of
spec/95_test_vectors.md, "Every location not listed holds 0x00". DESIGN CHOICE, unsafe (log 8). -/
def unlistedByte : Byte := 0x00#8

/-- FREE VALUE: one byte the spec leaves unconstrained, the `k`-th drawn (R28, U2; log 4). -/
opaque freeByte : Nat → Byte

/-- FREE VALUE: whether the transport reports success for an operation no schedule answers (R2 c, R27; log 3). -/
opaque freeSuccess : Nat → Bool

/-- FREE VALUE: the value of `t_fine` a reset leaves (R23, U1: any `s32`, not to be picked; log 2). -/
opaque freeTFine : Nat → BitVec 32

/-- FREE VALUE: the output format of choice `k` other than the default. What its conversion gives is known by P1 to P4 of
R62 alone, which the type carries (log 11). -/
opaque otherFround : Nat → OutputFormat

end Config

end Sys2Proof
end

