-- ==== Sys2Proof/WellFormed.lean ====
section
/-! DEFINITION. Well-formedness. A command carries no operand, so every command is well formed (R52). A set of
parameters is well formed when it satisfies every constraint of spec/00_scope.md R7; the machine refuses any
other (D3, U15). -/

namespace Sys2Proof

/-- Every command is well formed: it has no field that could hold an illegal value (R42, R52). -/
def Instr.wf : Instr → Bool
  | .initAcc => true
  | .readAcc => true
  | .initEnv => true
  | .loadCal => true
  | .readTemp => true
  | .readPress => true
  | .readHum => true

/-- The eight indexes of `H_LAYOUT`, in the order of R6. -/
def HLayout.indexes (l : HLayout) : List (Fin 9) :=
  [l.h2Lo, l.h2Hi, l.h3, l.h4Hi, l.h45, l.h5Hi, l.h6, l.h1]

/-- A block of `n` bytes from offset `reg` stays inside offsets 0 to 255 (R7). -/
def blockFits (reg : RegOffset) (n : Nat) : Bool := reg.toNat + n ≤ 256

/-- The constraints of R7. -/
def Params.wf (p : Params) : Bool :=
  p.envAddr != p.accAddr
    && blockFits p.calTpBase Config.calTpLen
    && blockFits p.calHBase Config.calHLen
    && blockFits p.envRegPress Config.tpSampleLen
    && blockFits p.envRegTemp Config.tpSampleLen
    && blockFits p.envRegHum Config.hSampleLen
    && blockFits p.accRegData Config.accSampleLen
    && decide p.hLayout.indexes.Nodup
    && decide (1 ≤ p.envModeWrites.length)
    && decide (p.envModeWrites.length ≤ 16)

end Sys2Proof
end

