-- ==== Sys2Proof/Decode.lean ====
section
/-! DEFINITION. The decoder of command words, the encoder, the opcode table's numbering, and the assembler of
command scripts (spec/30_encoding.md R42 to R45, R50, R51). The decoder is total on all 256 words: seven decode to
a command, 249 are rejected by name. -/

namespace Sys2Proof

/-- What a command word decodes to (R45). -/
inductive Decoded where
  /-- One of the seven commands. -/
  | command (i : Instr)
  /-- An illegal command word, which is kept as the reason (R44). -/
  | illegal (word : Byte)
  deriving DecidableEq, Repr

/-- The field `unit`, bits 7:4 of a command word (R42). -/
def wordUnit (w : Byte) : BitVec 4 := w.extractLsb' 4 4

/-- The field `op`, bits 3:0 of a command word (R42). -/
def wordOp (w : Byte) : BitVec 4 := w.extractLsb' 0 4

/-- The command of the ACC handle that `op` selects (R43). -/
def decodeAccOp (op : BitVec 4) : Option Instr :=
  if op = 0x0#4 then some .initAcc
  else if op = 0x1#4 then some .readAcc
  else none

/-- The command of the ENV handle that `op` selects (R43). -/
def decodeEnvOp (op : BitVec 4) : Option Instr :=
  if op = 0x0#4 then some .initEnv
  else if op = 0x1#4 then some .loadCal
  else if op = 0x2#4 then some .readTemp
  else if op = 0x3#4 then some .readPress
  else if op = 0x4#4 then some .readHum
  else none

/-- Decode one command word by its two fields (R42 to R45). -/
def decode (w : Byte) : Decoded :=
  let found :=
    if wordUnit w = 0x1#4 then decodeAccOp (wordOp w)
    else if wordUnit w = 0x2#4 then decodeEnvOp (wordOp w)
    else none
  match found with
  | some i => .command i
  | none => .illegal w

/-- The unit number of a handle (R42). -/
def unitOf : Handle → BitVec 4
  | .acc => 0x1#4
  | .env => 0x2#4

/-- The operation number of a command inside its handle (R43). -/
def opOf : Instr → BitVec 4
  | .initAcc => 0x0#4
  | .readAcc => 0x1#4
  | .initEnv => 0x0#4
  | .loadCal => 0x1#4
  | .readTemp => 0x2#4
  | .readPress => 0x3#4
  | .readHum => 0x4#4

/-- The command word of a command: `unit` in bits 7:4, `op` in bits 3:0 (R42, R43). -/
def encode (i : Instr) : Byte := unitOf i.handle ++ opOf i

/-- The instruction the decoder reads from an instruction whose bits are `w`, numbered as
spec/opcode_table.json numbers them: one word of 8 bits, bits above `nbits` zero. -/
def decodeTableWord (nbits w : Nat) : Option Instr :=
  match decode (BitVec.ofNat 8 (w % 2 ^ nbits)) with
  | .command i => some i
  | .illegal _ => none

/-! ## Scripts (R50, R51) -/

/-- The mnemonic of a command, in upper case (R43, R50). -/
def mnemonicChars : Instr → List Char
  | .initAcc => "INIT_ACC".toList
  | .readAcc => "READ_ACC".toList
  | .initEnv => "INIT_ENV".toList
  | .loadCal => "LOAD_CAL".toList
  | .readTemp => "READ_TEMP".toList
  | .readPress => "READ_PRESS".toList
  | .readHum => "READ_HUM".toList

/-- The commands a script's line may name, in the order of R43. -/
def allInstrs : List Instr :=
  [.initAcc, .readAcc, .initEnv, .loadCal, .readTemp, .readPress, .readHum]

/-- The expansion of the pseudo-instruction `SAMPLE_ENV` (R51). -/
def sampleEnv : List Instr := [.readTemp, .readPress, .readHum]

/-- A line without its comment: `;` starts a comment that runs to the end of the line (R50). -/
def stripComment : List Char → List Char
  | [] => []
  | c :: cs => if c = ';' then [] else c :: stripComment cs

/-- Spaces and tabs at the front dropped. DESIGN CHOICE (log 23). -/
def dropBlanks : List Char → List Char
  | [] => []
  | c :: cs => if c = ' ' ∨ c = '\t' then dropBlanks cs else c :: cs

/-- One line of a script: a blank line gives no command, a mnemonic one, `SAMPLE_ENV` three; any other line is
no line of a script (R50, R51). -/
def assembleLine (line : List Char) : Option (List Instr) :=
  let body := (dropBlanks (dropBlanks (stripComment line)).reverse).reverse
  if body = [] then some []
  else if body = "SAMPLE_ENV".toList then some sampleEnv
  else (allInstrs.find? fun i => mnemonicChars i = body).map fun i => [i]

/-- The command words of a script, one byte each, in order (R50). -/
def assemble : List (List Char) → Option (List Byte)
  | [] => some []
  | line :: rest =>
    match assembleLine line, assemble rest with
    | some is, some ws => some (is.map encode ++ ws)
    | _, _ => none

end Sys2Proof
end

