-- ==== Sys2Proof/Machine/State.lean ====
section
/-! DEFINITION. The state of the machine as plain data (spec/10_state.md R11 to R23), its state after reset, and
the reasons a step can stop. The engine's own state is `acc`, `env`, `result` and `activity`; `cfg` holds the
parameters, `bus` the transport's side of the sensor bus, `host` the host's side of the register port. The last
three are the model's own fields: see the assumption log, entries 1, 3, 8, 13, 14, 15 and 27. -/

namespace Sys2Proof.Machine

/-- A value of the output format: the range of `fround` (R15, R62). -/
inductive OutValue where
  /-- An IEEE 754 binary32 pattern, under the default `fround`. -/
  | binary32 (bits : BitVec 32)
  /-- A value of another output format, by what it stands for, under another `fround` (log 11). -/
  | otherFormat (v : OutNumber)
  deriving DecidableEq, Repr

/-- The 18 coefficient registers `c[0]` to `c[17]` under their aliases, each at its width (R12). `digT1`, `digP1`,
`digH1` and `digH3` hold unsigned values, the others two's complement. -/
structure Coefs where
  digT1 : BitVec 16
  digT2 : BitVec 16
  digT3 : BitVec 16
  digP1 : BitVec 16
  digP2 : BitVec 16
  digP3 : BitVec 16
  digP4 : BitVec 16
  digP5 : BitVec 16
  digP6 : BitVec 16
  digP7 : BitVec 16
  digP8 : BitVec 16
  digP9 : BitVec 16
  digH1 : BitVec 8
  digH2 : BitVec 16
  digH3 : BitVec 8
  digH4 : BitVec 16
  digH5 : BitVec 16
  digH6 : BitVec 8
  deriving DecidableEq, Repr

/-- All 18 coefficient registers zero: after reset and after a failed load (R23, R70). -/
def Coefs.zero : Coefs :=
  { digT1 := 0, digT2 := 0, digT3 := 0
    digP1 := 0, digP2 := 0, digP3 := 0, digP4 := 0, digP5 := 0
    digP6 := 0, digP7 := 0, digP8 := 0, digP9 := 0
    digH1 := 0, digH2 := 0, digH3 := 0, digH4 := 0, digH5 := 0, digH6 := 0 }

/-- The ACC handle: three output registers (R11, R15). -/
structure AccHandle where
  x : OutValue
  y : OutValue
  z : OutValue
  deriving DecidableEq, Repr

/-- The ENV handle: the coefficient registers, `CAL_VALID`, `t_fine` and three output registers (R11 to R15). -/
structure EnvHandle where
  coefs : Coefs
  calValid : Bool
  /-- `s32`, two's complement (R14). -/
  tFine : BitVec 32
  temp : OutValue
  press : OutValue
  hum : OutValue
  deriving DecidableEq, Repr

/-- The activity states (R17). -/
inductive Activity where
  | idle
  | busy
  deriving DecidableEq, Repr

/-- The status of a transport operation (R27). -/
inductive Status where
  | ok
  | fail
  deriving DecidableEq, Repr

/-- An event of the history (R38). -/
inductive Event where
  /-- `Rd(dev, reg, n, b, st)`. -/
  | rd (dev : DevAddr) (reg : RegOffset) (n : Nat) (b : List Byte) (st : Status)
  /-- `Wr(dev, reg, v, st)`. -/
  | wr (dev : DevAddr) (reg : RegOffset) (v : Byte) (st : Status)
  /-- `Wt(ms)`. -/
  | wt (ms : Nat)
  deriving DecidableEq, Repr

/-- What the transport answers to one operation (R24 to R28, R40, R41; log 3). Bytes that an answer to a read does
not give are free values; bytes beyond the read's length are not used. -/
inductive Answer where
  /-- Success, by the reference sensor memory of R40. -/
  | memory
  /-- Success, with these bytes for a read: whatever the sensor answered (R24, R34). -/
  | success (b : List Byte)
  /-- Failure, with these bytes left in the buffer of a read (R28). -/
  | failure (b : List Byte)
  /-- The transport never answers (R41, U4; log 6). -/
  | silent
  deriving DecidableEq, Repr

/-- The reference sensor memory (R40): pairs of address and byte, addresses strictly rising, no byte equal to what
an unlisted address reads as. The address of (device, offset) is device * 256 + offset (log 10). -/
abbrev Memory := List Host.Cell

/-- The canonical form from address `lo` on, inside the 15-bit address space (R20, R29). -/
def Memory.wfFrom (lo : Nat) : Memory → Bool
  | [] => true
  | (a, v) :: m => decide (lo ≤ a) && decide (a < 32768) && v != Config.unlistedByte && Memory.wfFrom (a + 1) m

/-- The canonical form of a memory. -/
def Memory.wf (m : Memory) : Bool := Memory.wfFrom 0 m

/-- The transport's side: the sensor memory, the coming answers, the draw counter, the event history. -/
structure Bus where
  mem : Memory
  /-- The answers to the next operations, first first; when none is left, answers are free values (log 3). -/
  answers : List Answer
  /-- How many free values have been drawn (log 5). -/
  draws : Nat
  /-- The events issued so far, oldest first (R38; log 13). -/
  history : List Event
  deriving DecidableEq, Repr

/-- What a host register read returns, at the register's own width (R18). -/
inductive HostValue where
  | u8 (v : BitVec 8)
  | s8 (v : BitVec 8)
  | u16 (v : BitVec 16)
  | s16 (v : BitVec 16)
  | s32 (v : BitVec 32)
  | out (v : OutValue)
  deriving DecidableEq, Repr

/-- A move of the host (R96). -/
inductive HostMove where
  /-- Write `v` to host register `reg`. -/
  | write (reg : Nat) (v : Byte)
  /-- Read host register `reg`. -/
  | read (reg : Nat)
  /-- The external reset event (R98). -/
  | reset
  deriving DecidableEq, Repr

/-- The host's side: its coming moves, first first (R108; log 14), and what its last register read returned
(log 15). -/
structure HostPort where
  pending : List HostMove
  data : Option HostValue
  deriving DecidableEq, Repr

/-- The state of the machine. -/
structure State where
  acc : AccHandle
  env : EnvHandle
  /-- `RESULT` (R16). -/
  result : BitVec 16
  activity : Activity
  cfg : Params
  bus : Bus
  host : HostPort
  deriving DecidableEq, Repr

/-- Why the machine stops with a fault. -/
inductive Fault where
  /-- Raised by `step` in a state whose engine is stuck inside a command because the transport never answered
  (R41, U4). Safe: the machine stops where the spec describes nothing further. -/
  | transportSilent
  deriving DecidableEq, Repr

/-- Why a step is refused. -/
inductive Refusal where
  /-- Raised by `exec` for an instruction without a meaning; every instruction of this model has one, so no arm
  raises it. Safe. -/
  | notModelled (mnemonic : String)
  /-- Raised by `step` when the parameters break R7 (R91 c, D3, U15). Safe: the spec gives such an engine no
  meaning. -/
  | badConfiguration
  /-- Raised by a host read of `CMD` or of an unlisted register number (R18, R91 c, U18). Safe: refused by the
  spec. -/
  | hostRead (reg : Nat)
  /-- Raised by a host write to any register but `CMD` (R18, R91 c, U18). Safe: refused by the spec. -/
  | hostWrite (reg : Nat)
  deriving DecidableEq, Repr

/-- The machine right after power-on (R23, R98), with the default parameters (R6). `t_fine` is a free value (R23,
log 2). The bus and the host's port hold nothing yet (log 27). -/
def State.reset : State :=
  { acc := { x := .binary32 0, y := .binary32 0, z := .binary32 0 }
    env :=
      { coefs := Coefs.zero, calValid := false, tFine := Config.freeTFine 0
        temp := .binary32 0, press := .binary32 0, hum := .binary32 0 }
    result := 0x0000#16
    activity := .idle
    cfg := Params.default
    bus := { mem := [], answers := [], draws := 1, history := [] }
    host := { pending := [], data := none } }

end Sys2Proof.Machine
end

