-- ==== Sys2Proof/Machine/Flags.lean ====
section
/-! DEFINITION. The layout of the status registers: `RESULT` (spec/10_state.md R16, spec/60_exceptions.md R84) and
`STATUS` (R18), how each is computed, and how each field is read back. -/

namespace Sys2Proof.Machine

/-- How a command ended: `complete`, or `raise E` with one of the four flags that stop a command (R10, R84). -/
inductive Verdict where
  | complete
  | idMismatch
  | calFail
  | computeErr
  | illegalCmd
  deriving DecidableEq, Repr

/-- The flag of `RESULT` that an end of a command sets (R16, R84). -/
def verdictFlag : Verdict → Nat
  | .complete => 0x0000
  | .idMismatch => 0x0002
  | .calFail => 0x0004
  | .computeErr => 0x0008
  | .illegalCmd => 0x0010

/-- The flag `TRANSPORT_ERR` for an error count (R16, R63 c). -/
def transportFlag (n : Nat) : Nat := if n = 0 then 0x0000 else 0x0001

/-- The value written to `RESULT` at the end of a command with `n` failed operations: `ERRCNT` in bits 15:8, bits
7:5 zero, one flag per kind in bits 4:0 (R16). The count has 8 bits; under R7 it cannot reach 255 (R65; log 19). -/
def resultWord (v : Verdict) (n : Nat) : BitVec 16 :=
  BitVec.ofNat 16 (n % 256 * 256 + verdictFlag v + transportFlag n)

/-- `RESULT.TRANSPORT_ERR`, bit 0. -/
def resTransportErr (r : BitVec 16) : Bool := r.getLsbD 0

/-- `RESULT.ID_MISMATCH`, bit 1. -/
def resIdMismatch (r : BitVec 16) : Bool := r.getLsbD 1

/-- `RESULT.CAL_FAIL`, bit 2. -/
def resCalFail (r : BitVec 16) : Bool := r.getLsbD 2

/-- `RESULT.COMPUTE_ERR`, bit 3. -/
def resComputeErr (r : BitVec 16) : Bool := r.getLsbD 3

/-- `RESULT.ILLEGAL_CMD`, bit 4. -/
def resIllegalCmd (r : BitVec 16) : Bool := r.getLsbD 4

/-- The reserved bits 7:5 of `RESULT`. -/
def resReserved (r : BitVec 16) : BitVec 3 := r.extractLsb' 5 3

/-- `RESULT.ERRCNT`, bits 15:8. -/
def resErrCnt (r : BitVec 16) : BitVec 8 := r.extractLsb' 8 8

/-- `STATUS`: bit 0 is `CAL_VALID`, bits 7:1 read as 0 (R18). -/
def statusByte (calValid : Bool) : BitVec 8 := if calValid then 0x01#8 else 0x00#8

/-- `fails(st)`: 1 for a failed operation, else 0 (R9). -/
def fails : Status → Nat
  | .ok => 0
  | .fail => 1

end Sys2Proof.Machine
end

