-- ==== Sys2Proof/Machine/Fround.lean ====
section
/-! DEFINITION. The output conversion `fround` of spec/40_arithmetic.md R62: the default, IEEE 754 binary32 with
round to nearest, ties to even, applied once to an exact rational; and the choice of another `fround`. -/

namespace Sys2Proof.Machine

/-- The exact rational `z / d` that a decoder hands to `fround` (R8, R62). -/
def exactRatio (z : Int) (d : Nat) : Rat := mkRat z d

/-- The integer nearest to `x / y`, ties to even. -/
def nearestEven (x y : Nat) : Nat :=
  if 2 * (x % y) < y then x / y
  else if y < 2 * (x % y) then x / y + 1
  else x / y + x / y % 2

/-- `2 ^ e ≤ a / d`, for an integer exponent `e`. -/
def powLe (e : Int) (a d : Nat) : Bool := 2 ^ e.toNat * d ≤ a * 2 ^ (-e).toNat

/-- The exponent `e` with `2 ^ e ≤ a / d < 2 ^ (e + 1)`, for positive `a` and `d`. -/
def ratioLog2 (a d : Nat) : Int :=
  let e : Int := (Nat.log2 a : Int) - (Nat.log2 d : Int)
  if powLe e a d then e else e - 1

/-- The exponent of the binary32 binade that `a / d` is rounded in: not below -126, where the subnormals are. -/
def binade (a d : Nat) : Int := max (ratioLog2 a d) (-126)

/-- The significand of `a / d` in units of the last place of the binade `e`: `2 ^ (e - 23)`. -/
def significand (e : Int) (a d : Nat) : Nat :=
  nearestEven (a * 2 ^ (23 - e).toNat) (d * 2 ^ (e - 23).toNat)

/-- The binary32 pattern, sign bit clear, of the positive rational `a / d`. A significand that rounds up to `2 ^ 24`
carries into the exponent; a value at or beyond `2 ^ 128` gives infinity. -/
def binary32Magnitude (a d : Nat) : Nat :=
  let e := binade a d
  if 127 < e then 0x7F800000 else (e + 126).toNat * 2 ^ 23 + significand e a d

/-- The default `fround`: binary32, round to nearest, ties to even (R62). -/
def froundBinary32 (q : Rat) : BitVec 32 :=
  if q.num = 0 then 0x00000000#32
  else if q.num < 0 then BitVec.ofNat 32 (0x80000000 + binary32Magnitude q.num.natAbs q.den)
  else BitVec.ofNat 32 (binary32Magnitude q.num.natAbs q.den)

/-- The parameter `fround` (R6, R62): the default or another choice. -/
def fround (choice : FroundChoice) (q : Rat) : OutValue :=
  match choice with
  | .binary32 => .binary32 (froundBinary32 q)
  | .other k => .otherFormat ((Config.otherFround k).convert q)

/-- A binary32 pattern stands for a number: its exponent field is not all ones. -/
def isFinite32 (p : BitVec 32) : Bool := p.extractLsb' 23 8 != 0xFF#8

/-- The number a finite binary32 pattern stands for. -/
def value32 (p : BitVec 32) : Rat :=
  let e := (p.extractLsb' 23 8).toNat
  let f := (p.extractLsb' 0 23).toNat
  let m : Nat := if e = 0 then f else 2 ^ 23 + f
  let k : Nat := if e = 0 then 1 else e
  let z : Int := if p.getLsbD 31 then -(m : Int) else m
  exactRatio (z * ((2 ^ (k - 150) : Nat) : Int)) (2 ^ (150 - k))

/-- What a binary32 pattern stands for. -/
def number32 (p : BitVec 32) : OutNumber :=
  if isFinite32 p then .number (value32 p)
  else if p.extractLsb' 0 23 != 0#23 then .notANumber
  else if p.getLsbD 31 then .minusInfinity
  else .plusInfinity

/-- What a value of the output format stands for (R15, R62). -/
def numberOf : OutValue → OutNumber
  | .binary32 p => number32 p
  | .otherFormat v => v

end Sys2Proof.Machine
end

