-- ==== Sys2Proof/Machine/Arith.lean ====
section
/-! DEFINITION. The integer operators of spec/40_arithmetic.md R53 to R60, on N-bit patterns. Each result is computed
exactly on mathematical integers and then narrowed to N bits, as the rules write it, so wrap-around, floor and
truncation stand in the definitions themselves. -/

namespace Sys2Proof.Machine

/-- `wrap_sN(z)`: the N-bit pattern congruent to `z` modulo 2^N (R53). -/
def wrapS (n : Nat) (z : Int) : BitVec n := BitVec.ofInt n z

/-- `wrap_uN(z)` for a natural number `z` (R53). -/
def wrapU (n : Nat) (z : Nat) : BitVec n := BitVec.ofNat n z

/-- `a +N b` (R54). -/
def addS {n : Nat} (a b : BitVec n) : BitVec n := wrapS n (a.toInt + b.toInt)

/-- `a -N b` (R54). -/
def subS {n : Nat} (a b : BitVec n) : BitVec n := wrapS n (a.toInt - b.toInt)

/-- `a *N b` (R54). -/
def mulS {n : Nat} (a b : BitVec n) : BitVec n := wrapS n (a.toInt * b.toInt)

/-- `a <<N k` for a signed value (R55). -/
def shlS {n : Nat} (a : BitVec n) (k : Nat) : BitVec n := wrapS n (a.toInt * ((2 ^ k : Nat) : Int))

/-- `a <<N k` for an unsigned value (R55). -/
def shlU {n : Nat} (a : BitVec n) (k : Nat) : BitVec n := wrapU n (a.toNat * 2 ^ k)

/-- `a >>a k`: the arithmetic right shift, rounding toward minus infinity (R55). -/
def sra {n : Nat} (a : BitVec n) (k : Nat) : BitVec n := wrapS n (a.toInt / ((2 ^ k : Nat) : Int))

/-- `a >>l k`: the logical right shift of an unsigned value (R55). -/
def srl {n : Nat} (a : BitVec n) (k : Nat) : BitVec n := wrapU n (a.toNat / 2 ^ k)

/-- `zext_N(a)` (R56). -/
def zext {m : Nat} (n : Nat) (a : BitVec m) : BitVec n := wrapU n a.toNat

/-- `sext_N(a)` (R56). -/
def sext {m : Nat} (n : Nat) (a : BitVec m) : BitVec n := wrapS n a.toInt

/-- `trunc_N(a)`: the low N bits (R56). -/
def trunc {m : Nat} (n : Nat) (a : BitVec m) : BitVec n := wrapU n a.toNat

/-- `a /sN b`: the quotient truncated toward zero, wrapped, so that -2^(N-1) / -1 is -2^(N-1) (R57). No rule
divides by zero: the divisor is tested first (R78, R79). -/
def divS {n : Nat} (a b : BitVec n) : BitVec n := wrapS n (Int.tdiv a.toInt b.toInt)

/-- `clamp(a, lo, hi)` by signed comparison (R59). -/
def clampS {n : Nat} (a lo hi : BitVec n) : BitVec n :=
  if a.toInt < lo.toInt then lo
  else if hi.toInt < a.toInt then hi
  else a

end Sys2Proof.Machine
end

