-- ==== Sys2Proof/Machine/Operands.lean ====
section
/-! DEFINITION. The engine's operand assembly: how bytes read from sensor memory become integers. The three raw
sample formats (spec/30_encoding.md R47 to R49) and the two coefficient blocks (spec/42_cal_loader.md R68, R69). -/

namespace Sys2Proof.Machine

/-- `b[i]`: byte `i` of a read (R8). A read has exactly the bytes asked for (R24), so an index beyond them never
arises (log 22). -/
def byteAt (b : List Byte) (i : Nat) : Byte := b.getD i 0x00#8

/-- The 16-bit pattern with the given high and low bytes. -/
def pair16 (hi lo : Byte) : BitVec 16 := shlU (zext 16 hi) 8 ||| zext 16 lo

/-- `AccRaw(b, k)`: axis `k` of an acceleration sample, a little-endian s16 (R47). -/
def accRaw (b : List Byte) (k : Nat) : BitVec 16 := pair16 (byteAt b (2 * k + 1)) (byteAt b (2 * k))

/-- `Adc20(b)`: a temperature or pressure sample, 20 bits, most significant byte first (R48). -/
def adc20 (b : List Byte) : BitVec 32 :=
  shlU (zext 32 (byteAt b 0)) 12 ||| shlU (zext 32 (byteAt b 1)) 4 ||| srl (zext 32 (byteAt b 2)) 4

/-- `AdcH(b)`: a humidity sample, big-endian 16 bits (R49). -/
def adcH (b : List Byte) : BitVec 32 := shlU (zext 32 (byteAt b 0)) 8 ||| zext 32 (byteAt b 1)

/-- `pat(j)`: the pattern of 16-bit field `j` of the temperature and pressure block (R68). -/
def calField (bt : List Byte) (j : Nat) : BitVec 16 := pair16 (byteAt bt (2 * j + 1)) (byteAt bt (2 * j))

/-- The byte of the humidity block that an index of `H_LAYOUT` names (R69). -/
def humByte (bh : List Byte) (i : Fin 9) : Byte := byteAt bh i.val

/-- `p4`: the 12-bit pattern of `dig_H4`; the shared byte's low nibble is bits 3:0 (R69). -/
def humP4 (l : HLayout) (bh : List Byte) : BitVec 16 :=
  shlU (zext 16 (humByte bh l.h4Hi)) 4 ||| (zext 16 (humByte bh l.h45) &&& 0x000F#16)

/-- `p5`: the 12-bit pattern of `dig_H5`; the shared byte's high nibble is bits 3:0 (R69). -/
def humP5 (l : HLayout) (bh : List Byte) : BitVec 16 :=
  shlU (zext 16 (humByte bh l.h5Hi)) 4 ||| srl (zext 16 (humByte bh l.h45)) 4

/-- `ext12(p)`: sign extension from bit 11 when `H45_SIGN_EXTEND` says so (R69). -/
def ext12 (signExtend : Bool) (p : BitVec 16) : BitVec 16 :=
  if signExtend && decide (2048 ≤ p.toNat) then wrapS 16 ((p.toNat : Int) - 4096) else p

/-- The 18 coefficients reassembled from the two blocks (R68, R69). -/
def reassemble (l : HLayout) (signExtend : Bool) (bt bh : List Byte) : Coefs :=
  { digT1 := calField bt 0, digT2 := calField bt 1, digT3 := calField bt 2
    digP1 := calField bt 3, digP2 := calField bt 4, digP3 := calField bt 5
    digP4 := calField bt 6, digP5 := calField bt 7, digP6 := calField bt 8
    digP7 := calField bt 9, digP8 := calField bt 10, digP9 := calField bt 11
    digH1 := humByte bh l.h1
    digH2 := pair16 (humByte bh l.h2Hi) (humByte bh l.h2Lo)
    digH3 := humByte bh l.h3
    digH4 := ext12 signExtend (humP4 l bh)
    digH5 := ext12 signExtend (humP5 l bh)
    digH6 := humByte bh l.h6 }

end Sys2Proof.Machine
end

