-- ==== Sys2Proof/Machine/Ops.lean ====
section
/-! DEFINITION. The named operations over the state: sensor memory, the transport's primitives `MemRead`, `MemWrite`
and `Wait` (spec/20_memory.md R24 to R28), the register writes, and the beginning and end of a command, `raise` and
`complete` (spec/00_scope.md R10), with what stands inside a running command between them. The engine has no trap
entry and no trap return (spec/60_exceptions.md R88, R89): the shared operation that reports every failure is
`endCommand`. -/

namespace Sys2Proof.Machine

/-! ## Sensor memory (R20, R29, R40) -/

/-- The address of a location (device, offset) in the reference sensor memory (log 10). -/
def sensorAddr (dev : DevAddr) (reg : RegOffset) : Nat := dev.toNat * 256 + reg.toNat

/-- One byte of sensor memory. -/
def memGet : Memory → Nat → Byte
  | [], _ => Config.unlistedByte
  | (k, v) :: m, a => if k = a then v else memGet m a

/-- Store one byte in sensor memory, keeping the canonical form. -/
def memPut : Memory → Nat → Byte → Memory
  | [], a, v => if v = Config.unlistedByte then [] else [(a, v)]
  | (k, x) :: m, a, v =>
    if a < k then (if v = Config.unlistedByte then (k, x) :: m else (a, v) :: (k, x) :: m)
    else if a = k then (if v = Config.unlistedByte then m else (a, v) :: m)
    else (k, x) :: memPut m a v

/-- The `n` bytes at offsets `reg`, `reg+1`, ... of a device (R24, R40). Under R7 no offset passes 255 (log 10). -/
def memBytes (m : Memory) (dev : DevAddr) (reg : RegOffset) (n : Nat) : List Byte :=
  (List.range n).map fun i => memGet m (sensorAddr dev (reg + BitVec.ofNat 8 i))

/-! ## The transport (R24 to R28) -/

/-- The transport's answer to the next operation: the scheduled one, else a free value (log 3). -/
def nextAnswer (t : Bus) : Answer :=
  match t.answers with
  | a :: _ => a
  | [] => if Config.freeSuccess t.draws then .success [] else .failure []

/-- Exactly `n` bytes: the given ones, and free values where none is given (R24, R28; log 4). -/
def fillBytes (n : Nat) (given : List Byte) (draws : Nat) : List Byte :=
  (List.range n).map fun i => given.getD i (Config.freeByte (draws + 1 + i))

/-- What the transport answers if the next operation is `MemRead(dev, reg, n)`; `none` if it never answers. -/
def readReply (t : Bus) (dev : DevAddr) (reg : RegOffset) (n : Nat) : Option (List Byte × Status) :=
  match nextAnswer t with
  | .memory => some (memBytes t.mem dev reg n, .ok)
  | .success b => some (fillBytes n b t.draws, .ok)
  | .failure b => some (fillBytes n b t.draws, .fail)
  | .silent => none

/-- What the transport answers if the next operation is a `MemWrite`; `none` if it never answers. -/
def writeReply (t : Bus) : Option Status :=
  match nextAnswer t with
  | .memory => some .ok
  | .success _ => some .ok
  | .failure _ => some .fail
  | .silent => none

/-- The bus after an answered `MemRead`: the event is in the history (R38). -/
def afterRead (t : Bus) (dev : DevAddr) (reg : RegOffset) (n : Nat) (b : List Byte) (st : Status) : Bus :=
  { t with
    answers := t.answers.tail
    draws := t.draws + n + 1
    history := t.history ++ [.rd dev reg n b st] }

/-- The bus after an answered `MemWrite`: a write that succeeded is stored, one that failed is not (R40; log 9). -/
def afterWrite (t : Bus) (dev : DevAddr) (reg : RegOffset) (v : Byte) (st : Status) : Bus :=
  { mem := if st = .ok then memPut t.mem (sensorAddr dev reg) v else t.mem
    answers := t.answers.tail
    draws := t.draws + 1
    history := t.history ++ [.wr dev reg v st] }

/-- The bus after `Wait(ms)`, which is an event and nothing else (R26). -/
def afterWait (t : Bus) (ms : Nat) : Bus := { t with history := t.history ++ [.wt ms] }

/-! ## Register writes -/

/-- Replace the transport's side. -/
def State.setBus (s : State) (t : Bus) : State := { s with bus := t }

/-- Write all 18 coefficient registers and `CAL_VALID` in one commit (R12, R13, R70). -/
def State.commitCal (s : State) (c : Coefs) (valid : Bool) : State :=
  { s with env := { s.env with coefs := c, calValid := valid } }

/-- Write `t_fine` (R14). -/
def State.setTFine (s : State) (v : BitVec 32) : State := { s with env := { s.env with tFine := v } }

/-- Write `TEMP` (R15). -/
def State.setTemp (s : State) (v : OutValue) : State := { s with env := { s.env with temp := v } }

/-- Write `PRESS` (R15). -/
def State.setPress (s : State) (v : OutValue) : State := { s with env := { s.env with press := v } }

/-- Write `HUM` (R15). -/
def State.setHum (s : State) (v : OutValue) : State := { s with env := { s.env with hum := v } }

/-- Write `ACC_X`, `ACC_Y` and `ACC_Z` (R15). -/
def State.setAcc (s : State) (x y z : OutValue) : State := { s with acc := { x := x, y := y, z := z } }

/-- Write `RESULT` whole (R16). -/
def State.setResult (s : State) (r : BitVec 16) : State := { s with result := r }

/-- Set the activity state (R17). -/
def State.setActivity (s : State) (a : Activity) : State := { s with activity := a }

/-- Replace the host's coming moves. -/
def State.setPending (s : State) (ms : List HostMove) : State := { s with host := { s.host with pending := ms } }

/-- Set what the host's last register read returned. -/
def State.setData (s : State) (v : HostValue) : State := { s with host := { s.host with data := some v } }

/-! ## Inside a running command -/

/-- What stands inside a running command: the state so far and the error counter `n` (R21 b, R63 b). -/
structure Work where
  state : State
  failed : Nat
  deriving DecidableEq, Repr

/-- A part of a command: done with a value, or stuck in an operation the transport never answers (R41; log 6). -/
inductive Run (α : Type) where
  | done (a : α) (w : Work)
  | stuck (w : Work)
  deriving DecidableEq, Repr

/-- One part of a command after another (R35). -/
def Run.andThen {α β : Type} (r : Run α) (k : α → Work → Run β) : Run β :=
  match r with
  | .done a w => k a w
  | .stuck w => .stuck w

/-- Change the engine's registers and nothing else of the work. -/
def Work.update (w : Work) (f : State → State) : Work := { w with state := f w.state }

/-- `MemRead(dev, reg, n)`: the bytes are returned, a failure is counted (R24, R63 b). -/
def memRead (w : Work) (dev : DevAddr) (reg : RegOffset) (n : Nat) : Run (List Byte × Status) :=
  match readReply w.state.bus dev reg n with
  | some (b, st) =>
    .done (b, st)
      { state := w.state.setBus (afterRead w.state.bus dev reg n b st), failed := w.failed + fails st }
  | none => .stuck w

/-- `MemWrite(dev, reg, 1, v)`: a failure is counted (R25, R63 b). -/
def memWrite (w : Work) (dev : DevAddr) (reg : RegOffset) (v : Byte) : Run Status :=
  match writeReply w.state.bus with
  | some st =>
    .done st
      { state := w.state.setBus (afterWrite w.state.bus dev reg v st), failed := w.failed + fails st }
  | none => .stuck w

/-- `Wait(ms)` (R26): it cannot fail and is not counted (R63 b; log 7). -/
def waitMs (w : Work) (ms : Nat) : Work :=
  { w with state := w.state.setBus (afterWait w.state.bus ms) }

/-- Write a list of (register, byte) pairs of one device in list order, going on after a failure (R63 d, R65). -/
def memWriteAll (dev : DevAddr) : List (RegOffset × Byte) → Work → Run Unit
  | [], w => .done () w
  | (reg, v) :: rest, w => (memWrite w dev reg v).andThen fun _ w' => memWriteAll dev rest w'

/-- Step 1 of both initializations (R63 a): read the identity register and say whether its byte, whatever the
status, is the expected constant. -/
def identityCheck (w : Work) (dev : DevAddr) (reg : RegOffset) (expected : Byte) : Run Bool :=
  (memRead w dev reg 1).andThen fun r w' => .done (decide (byteAt r.1 0 = expected)) w'

/-! ## The beginning and the end of a command (R10, R46) -/

/-- The engine becomes BUSY; the error counter starts at 0 (R21 b, R46). -/
def beginCommand (s : State) : Work := { state := s.setActivity .busy, failed := 0 }

/-- `raise E` and `complete` (R10): write `RESULT` whole and return to IDLE. -/
def endCommand (v : Verdict) (w : Work) : State :=
  (w.state.setResult (resultWord v w.failed)).setActivity .idle

/-- Run a command from its beginning to its end. A command whose transport never answers leaves the engine BUSY, with
the writes it has made so far and no `RESULT` (R41; log 6). -/
def runCommand (body : Work → Run Verdict) (s : State) : State :=
  match body (beginCommand s) with
  | .done v w => endCommand v w
  | .stuck w => w.state

/-- An illegal command word: no transport operation, no state but `RESULT` (R44): `raise ILLEGAL_CMD`. -/
def illegalCommand (s : State) : State := runCommand (fun w => .done .illegalCmd w) s

/-- The reset event (R23, R98): every piece of the engine's state at its reset value, `t_fine` a free value (log 2);
no transport operation, and the parameters, the sensors and the host are as before (log 21). -/
def resetEvent (s : State) : State :=
  { s with
    acc :=
      { x := fround s.cfg.fround 0, y := fround s.cfg.fround 0, z := fround s.cfg.fround 0 }
    env :=
      { coefs := Coefs.zero, calValid := false, tFine := Config.freeTFine s.bus.draws
        temp := fround s.cfg.fround 0, press := fround s.cfg.fround 0, hum := fround s.cfg.fround 0 }
    result := 0x0000#16
    activity := .idle
    bus := { s.bus with draws := s.bus.draws + 1 } }

end Sys2Proof.Machine
end

