-- ==== Sys2Proof/Machine/Accel.lean ====
section
/-! DEFINITION. The acceleration decoder: `READ_ACC` (spec/43_decode_acceleration.md R72, R73). -/

namespace Sys2Proof.Machine

/-- `AccDecode(raw)` before rounding: the exact rational `raw * 39 / 10000` (R73). -/
def accRatio (raw : BitVec 16) : Rat := exactRatio (raw.toInt * 39) 10000

/-- The output of one axis of an acceleration sample (R72, R73). -/
def accOutput (choice : FroundChoice) (b : List Byte) (k : Nat) : OutValue :=
  fround choice (accRatio (accRaw b k))

/-- The steps of `READ_ACC` (R72): the decode runs whatever the status of the read. -/
def readAccBody (w : Work) : Run Verdict :=
  (memRead w w.state.cfg.accAddr w.state.cfg.accRegData Config.accSampleLen).andThen fun r w1 =>
    .done .complete
      (w1.update fun s =>
        s.setAcc (accOutput s.cfg.fround r.1 0) (accOutput s.cfg.fround r.1 1) (accOutput s.cfg.fround r.1 2))

/-- `READ_ACC` (R72). -/
def execReadAcc (s : State) : Host.Outcome State Fault Refusal := .next (runCommand readAccBody s)

end Sys2Proof.Machine
end

