-- ==== Sys2Proof/Machine/Hum.lean ====
section
/-! DEFINITION. The humidity decoder: `READ_HUM` (spec/46_decode_humidity.md R81, R82). All arithmetic is on s32 with
wrap-around at every operator (R54, R60), then one explicit clamp. -/

namespace Sys2Proof.Machine

/-- `v` of `CompH` (R82): `t_fine -32 76800`. -/
def humV (tFine : BitVec 32) : BitVec 32 := subS tFine 76800#32

/-- `x` of `CompH` (R82). -/
def humX (adc v : BitVec 32) (digH4 digH5 : BitVec 16) : BitVec 32 :=
  sra (addS (subS (subS (shlS adc 14) (shlS (sext 32 digH4) 20)) (mulS (sext 32 digH5) v)) 16384#32) 15

/-- `y` of `CompH`, by `y1`, `y2` and `y3` (R82). -/
def humY (v : BitVec 32) (digH2 : BitVec 16) (digH3 digH6 : BitVec 8) : BitVec 32 :=
  let y1 := sra (mulS v (sext 32 digH6)) 10
  let y2 := addS (sra (mulS v (zext 32 digH3)) 11) 32768#32
  let y3 := addS (sra (mulS y1 y2) 10) 2097152#32
  sra (addS (mulS y3 (sext 32 digH2)) 8192#32) 14

/-- `z` of `CompH` (R82). -/
def humZ (w : BitVec 32) (digH1 : BitVec 8) : BitVec 32 :=
  sra (mulS (sra (mulS (sra w 15) (sra w 15)) 7) (zext 32 digH1)) 4

/-- `u` of `CompH`: the value before the clamp (R82). -/
def humU (adc tFine : BitVec 32) (c : Coefs) : BitVec 32 :=
  let v := humV tFine
  let w := mulS (humX adc v c.digH4 c.digH5) (humY v c.digH2 c.digH3 c.digH6)
  subS w (humZ w c.digH1)

/-- `CompH` (R82): `H_int`, percent relative humidity times 1024. -/
def compH (adc tFine : BitVec 32) (c : Coefs) : BitVec 32 :=
  sra (clampS (humU adc tFine c) 0#32 419430400#32) 12

/-- `HUM` for the value that `CompH` returns: `fround(H_int / 1024)` (R81). -/
def humOutput (choice : FroundChoice) (h : BitVec 32) : OutValue := fround choice (exactRatio h.toInt 1024)

/-- The steps of `READ_HUM` (R81): the decode runs whatever the status of the read. -/
def readHumBody (w : Work) : Run Verdict :=
  (memRead w w.state.cfg.envAddr w.state.cfg.envRegHum Config.hSampleLen).andThen fun r w1 =>
    .done .complete
      (w1.update fun s => s.setHum (humOutput s.cfg.fround (compH (adcH r.1) s.env.tFine s.env.coefs)))

/-- `READ_HUM` (R81). -/
def execReadHum (s : State) : Host.Outcome State Fault Refusal := .next (runCommand readHumBody s)

end Sys2Proof.Machine
end

