-- ==== Sys2Proof/Machine/Loader.lean ====
section
/-! DEFINITION. The calibration loader: the procedure `CalLoad` (spec/42_cal_loader.md R70) and the command
`LOAD_CAL` (R67). -/

namespace Sys2Proof.Machine

/-- A failed load: all 18 registers zero and `CAL_VALID` cleared (R70). -/
def calLoadFailed (w : Work) : Run Bool := .done false (w.update fun s => s.commitCal Coefs.zero false)

/-- A full load: all 18 registers from the two buffers in one commit, `CAL_VALID` set (R70). -/
def calLoadCommit (bt bh : List Byte) (w : Work) : Run Bool :=
  .done true
    (w.update fun s => s.commitCal (reassemble s.cfg.hLayout s.cfg.h45SignExtend bt bh) true)

/-- `CalLoad()` (R70): whether a full set was committed. The failed reads are counted in the work's error counter,
which is the `k` of the rule. The second block is not read after a failed first read (D19). -/
def calLoad (w : Work) : Run Bool :=
  (memRead w w.state.cfg.envAddr w.state.cfg.calTpBase Config.calTpLen).andThen fun rt w1 =>
    match rt.2 with
    | .fail => calLoadFailed w1
    | .ok =>
      (memRead w1 w1.state.cfg.envAddr w1.state.cfg.calHBase Config.calHLen).andThen fun rh w2 =>
        match rh.2 with
        | .fail => calLoadFailed w2
        | .ok => calLoadCommit rt.1 rh.1 w2

/-- The steps of `LOAD_CAL` (R67). -/
def loadCalBody (w : Work) : Run Verdict :=
  (calLoad w).andThen fun ok w' => .done (if ok then .complete else .calFail) w'

/-- `LOAD_CAL` (R67). -/
def execLoadCal (s : State) : Host.Outcome State Fault Refusal := .next (runCommand loadCalBody s)

end Sys2Proof.Machine
end

