-- ==== Sys2Proof/Machine/Init.lean ====
section
/-! DEFINITION. The initialization sequencer: `INIT_ACC` (spec/41_init_sequencer.md R64) and `INIT_ENV` (R65), with
the shared behaviour of R63. -/

namespace Sys2Proof.Machine

/-- The steps of `INIT_ACC` (R64). -/
def initAccBody (w : Work) : Run Verdict :=
  (identityCheck w w.state.cfg.accAddr w.state.cfg.accRegId w.state.cfg.accIdValue).andThen fun isExpected w1 =>
    if isExpected then
      (memWrite w1 w1.state.cfg.accAddr w1.state.cfg.accRegPower w1.state.cfg.accPowerByte).andThen fun _ w2 =>
        .done .complete w2
    else .done .idMismatch w1

/-- `INIT_ACC` (R64). -/
def execInitAcc (s : State) : Host.Outcome State Fault Refusal := .next (runCommand initAccBody s)

/-- Steps 2 and 3 of `INIT_ENV` (R65): the reset write, the settle delay whatever its status, the configuration
write. -/
def initEnvConfigure (w : Work) : Run Status :=
  (memWrite w w.state.cfg.envAddr w.state.cfg.envRegReset w.state.cfg.envResetCmd).andThen fun _ w1 =>
    let w2 := waitMs w1 Config.envResetDelay
    memWrite w2 w2.state.cfg.envAddr w2.state.cfg.envRegConfig w2.state.cfg.envConfigByte

/-- Steps 4 to 6 of `INIT_ENV` (R65): the loader, then, unless it failed, the mode writes in list order. -/
def initEnvCalibrate (w : Work) : Run Verdict :=
  (calLoad w).andThen fun ok w1 =>
    if ok then
      (memWriteAll w1.state.cfg.envAddr w1.state.cfg.envModeWrites w1).andThen fun _ w2 => .done .complete w2
    else .done .calFail w1

/-- The steps of `INIT_ENV` (R65). -/
def initEnvBody (w : Work) : Run Verdict :=
  (identityCheck w w.state.cfg.envAddr w.state.cfg.envRegId w.state.cfg.envIdValue).andThen fun isExpected w1 =>
    if isExpected then (initEnvConfigure w1).andThen fun _ w2 => initEnvCalibrate w2
    else .done .idMismatch w1

/-- `INIT_ENV` (R65). -/
def execInitEnv (s : State) : Host.Outcome State Fault Refusal := .next (runCommand initEnvBody s)

end Sys2Proof.Machine
end

