-- ==== Sys2Proof/Machine/Press.lean ====
section
/-! DEFINITION. The pressure decoder: `READ_PRESS` (spec/45_decode_pressure.md R78, R79). All arithmetic is on s64 with
wrap-around at every operator (R54, R60). -/

namespace Sys2Proof.Machine

/-- The first `var1` of `CompP` (R79): `sext_64(t_fine) -64 128000`. -/
def pressStart (tFine : BitVec 32) : BitVec 64 := subS (sext 64 tFine) 128000#64

/-- `var2` of `CompP` after its three lines (R79). -/
def pressOffset (tFine : BitVec 32) (digP4 digP5 digP6 : BitVec 16) : BitVec 64 :=
  let var1 := pressStart tFine
  let var2 := mulS (mulS var1 var1) (sext 64 digP6)
  let var2 := addS var2 (shlS (mulS var1 (sext 64 digP5)) 17)
  addS var2 (shlS (sext 64 digP4) 35)

/-- The second `var1` of `CompP` (R79). -/
def pressScale (tFine : BitVec 32) (digP2 digP3 : BitVec 16) : BitVec 64 :=
  let var1 := pressStart tFine
  addS (sra (mulS (mulS var1 var1) (sext 64 digP3)) 8) (shlS (mulS var1 (sext 64 digP2)) 12)

/-- The wrapped product `((2^47 + v) * P1)` of the divisor (R79, R80 b). -/
def pressProduct (tFine : BitVec 32) (digP1 digP2 digP3 : BitVec 16) : BitVec 64 :=
  mulS (addS (shlS 1#64 47) (pressScale tFine digP2 digP3)) (zext 64 digP1)

/-- The divisor: the third `var1` of `CompP` (R79). -/
def pressDivisor (tFine : BitVec 32) (digP1 digP2 digP3 : BitVec 16) : BitVec 64 :=
  sra (pressProduct tFine digP1 digP2 digP3) 33

/-- The quotient `p` of `CompP`, for a non-zero divisor (R79). -/
def pressQuotient (adcP : BitVec 32) (var2 divisor : BitVec 64) : BitVec 64 :=
  let p := subS 1048576#64 (sext 64 adcP)
  divS (mulS (subS (shlS p 31) var2) 3125#64) divisor

/-- The last four lines of `CompP`, from the quotient to the returned u32 (R79). -/
def pressFinish (p : BitVec 64) (digP7 digP8 digP9 : BitVec 16) : BitVec 32 :=
  let var1 := sra (mulS (mulS (sext 64 digP9) (sra p 13)) (sra p 13)) 25
  let var2 := sra (mulS (sext 64 digP8) p) 19
  let p := addS (sra (addS (addS p var1) var2) 8) (shlS (sext 64 digP7) 4)
  trunc 32 p

/-- `CompP` (R79): `none` is `DIVZERO`, otherwise the u32 that is pascal times 256. -/
def compP (adcP tFine : BitVec 32) (c : Coefs) : Option (BitVec 32) :=
  let divisor := pressDivisor tFine c.digP1 c.digP2 c.digP3
  if divisor = 0#64 then none
  else
    some (pressFinish (pressQuotient adcP (pressOffset tFine c.digP4 c.digP5 c.digP6) divisor)
      c.digP7 c.digP8 c.digP9)

/-- `PRESS` for the u32 that `CompP` returns: `fround(r / 256)` (R78). -/
def pressOutput (choice : FroundChoice) (r : BitVec 32) : OutValue :=
  fround choice (exactRatio (r.toNat : Int) 256)

/-- The steps of `READ_PRESS` (R78): the read is always issued, the decode runs whatever its status, and on a zero
divisor nothing is written but `RESULT`. -/
def readPressBody (w : Work) : Run Verdict :=
  (memRead w w.state.cfg.envAddr w.state.cfg.envRegPress Config.tpSampleLen).andThen fun r w1 =>
    match compP (adc20 r.1) w1.state.env.tFine w1.state.env.coefs with
    | none => .done .computeErr w1
    | some p => .done .complete (w1.update fun s => s.setPress (pressOutput s.cfg.fround p))

/-- `READ_PRESS` (R78). -/
def execReadPress (s : State) : Host.Outcome State Fault Refusal := .next (runCommand readPressBody s)

end Sys2Proof.Machine
end

