-- ==== Sys2Proof/Machine/Temp.lean ====
section
/-! DEFINITION. The temperature decoder and the `t_fine` engine: `READ_TEMP` (spec/44_decode_temperature_tfine.md R74,
R75). All arithmetic is on s32 with wrap-around at every operator (R54, R60). -/

namespace Sys2Proof.Machine

/-- Stage 1 of `CompT` (R75): `(((adc_T >>a 3) -32 (T1 <<32 1)) *32 T2) >>a 11`. -/
def tempStage1 (adcT : BitVec 32) (digT1 digT2 : BitVec 16) : BitVec 32 :=
  sra (mulS (subS (sra adcT 3) (shlS (zext 32 digT1) 1)) (sext 32 digT2)) 11

/-- Stage 2 of `CompT` (R75): `(((d *32 d) >>a 12) *32 T3) >>a 14` with `d = (adc_T >>a 4) -32 T1`. -/
def tempStage2 (adcT : BitVec 32) (digT1 digT3 : BitVec 16) : BitVec 32 :=
  let d := subS (sra adcT 4) (zext 32 digT1)
  sra (mulS (sra (mulS d d) 12) (sext 32 digT3)) 14

/-- `t_fine` of `CompT`: the sum of the two stages (R75). -/
def compTFine (adcT : BitVec 32) (digT1 digT2 digT3 : BitVec 16) : BitVec 32 :=
  addS (tempStage1 adcT digT1 digT2) (tempStage2 adcT digT1 digT3)

/-- `T_int` of `CompT`, hundredths of a degree: `((t_fine *32 5) +32 128) >>a 8` (R75). -/
def compTInt (tFine : BitVec 32) : BitVec 32 := sra (addS (mulS tFine 5#32) 128#32) 8

/-- `TEMP` for a value of `t_fine`: `fround(T_int / 100)` (R74). -/
def tempOutput (choice : FroundChoice) (tFine : BitVec 32) : OutValue :=
  fround choice (exactRatio (compTInt tFine).toInt 100)

/-- The `t_fine` that `READ_TEMP` computes from a sample and the coefficient registers (R74). -/
def tFineOf (c : Coefs) (b : List Byte) : BitVec 32 := compTFine (adc20 b) c.digT1 c.digT2 c.digT3

/-- The steps of `READ_TEMP` (R74): the decode runs whatever the status of the read. -/
def readTempBody (w : Work) : Run Verdict :=
  (memRead w w.state.cfg.envAddr w.state.cfg.envRegTemp Config.tpSampleLen).andThen fun r w1 =>
    .done .complete
      (w1.update fun s =>
        (s.setTFine (tFineOf s.env.coefs r.1)).setTemp (tempOutput s.cfg.fround (tFineOf s.env.coefs r.1)))

/-- `READ_TEMP` (R74). -/
def execReadTemp (s : State) : Host.Outcome State Fault Refusal := .next (runCommand readTempBody s)

end Sys2Proof.Machine
end

