-- ==== Sys2Proof/Machine/Dispatch.lean ====
section
/-! DEFINITION. One arm per command of spec/opcode_table.json, each one direct call of its meaning. -/

namespace Sys2Proof.Machine

def exec (i : Instr) (s : State) : Host.Outcome State Fault Refusal :=
  match i with
  | .initAcc => Sys2Proof.Machine.execInitAcc s
  | .readAcc => Sys2Proof.Machine.execReadAcc s
  | .initEnv => Sys2Proof.Machine.execInitEnv s
  | .loadCal => Sys2Proof.Machine.execLoadCal s
  | .readTemp => Sys2Proof.Machine.execReadTemp s
  | .readPress => Sys2Proof.Machine.execReadPress s
  | .readHum => Sys2Proof.Machine.execReadHum s

end Sys2Proof.Machine
end

