-- ==== Sys2Proof/Machine/HostPort.lean ====
section
/-! DEFINITION. The host's register port (spec/10_state.md R18, spec/30_encoding.md R46, spec/60_exceptions.md R96): what
each register number reads as, and what each move of the host does. -/

namespace Sys2Proof.Machine

/-- The coefficient registers in the order `c[0]` to `c[17]`, each at the type of R12. -/
def coefValues (c : Coefs) : List HostValue :=
  [.u16 c.digT1, .s16 c.digT2, .s16 c.digT3, .u16 c.digP1, .s16 c.digP2, .s16 c.digP3, .s16 c.digP4,
    .s16 c.digP5, .s16 c.digP6, .s16 c.digP7, .s16 c.digP8, .s16 c.digP9, .u8 c.digH1, .s16 c.digH2, .u8 c.digH3,
    .s16 c.digH4, .s16 c.digH5, .s8 c.digH6]

/-- What host register `reg` reads as; `none` for `CMD` and for a number not in the map (R18). -/
def hostRead (reg : Nat) (s : State) : Option HostValue :=
  if reg = 0x01 then some (.u16 s.result)
  else if reg = 0x02 then some (.u8 (statusByte s.env.calValid))
  else if reg = 0x03 then some (.s32 s.env.tFine)
  else if reg = 0x04 then some (.out s.acc.x)
  else if reg = 0x05 then some (.out s.acc.y)
  else if reg = 0x06 then some (.out s.acc.z)
  else if reg = 0x07 then some (.out s.env.temp)
  else if reg = 0x08 then some (.out s.env.press)
  else if reg = 0x09 then some (.out s.env.hum)
  else if 0x10 ≤ reg then (coefValues s.env.coefs)[reg - 0x10]?
  else none

/-- A write of a command word to `CMD` (R46): the command runs to its end; an illegal word raises `ILLEGAL_CMD`
(R44). -/
def issue (word : Byte) (s : State) : Host.Outcome State Fault Refusal :=
  match decode word with
  | .command i => exec i s
  | .illegal _ => .next (illegalCommand s)

/-- A move of the host on an IDLE engine (R18, R96, R98). -/
def hostMove (m : HostMove) (s : State) : Host.Outcome State Fault Refusal :=
  match m with
  | .write reg v => if reg = 0x00 then issue v s else .refused (.hostWrite reg)
  | .read reg =>
    match hostRead reg s with
    | some v => .next (s.setData v)
    | none => .refused (.hostRead reg)
  | .reset => .next (resetEvent s)

/-- The engine's turn: in IDLE it takes the host's next move, or waits when there is none (R17, R98); in BUSY it is
stuck inside a command whose transport never answered (R41, R91 b; log 6). -/
def turn (s : State) : Host.Outcome State Fault Refusal :=
  match s.activity with
  | .busy => .fault .transportSilent
  | .idle =>
    match s.host.pending with
    | [] => .next s
    | m :: ms => hostMove m (s.setPending ms)

/-- The moves by which a host issues a script's command words (R50). -/
def scriptMoves (words : List Byte) : List HostMove := words.map fun w => .write 0x00 w

end Sys2Proof.Machine
end

