-- ==== Sys2Proof/Machine/Step.lean ====
section
/-! DEFINITION. One step of the machine: one move of the host, refused when the parameters break spec/00_scope.md R7;
and the harness that gives the machine a command word to run next. -/

namespace Sys2Proof.Machine

/-- One step (R17, R46, R91, R96). -/
def step (s : State) : Host.Outcome State Fault Refusal :=
  if s.cfg.wf then turn s else .refused .badConfiguration

/-- `s` with the host about to write the command word `w` to `CMD`, and the engine IDLE, as the write needs (R46; log
26). -/
def State.withFetchWord (s : State) (nbits w : Nat) : State :=
  (s.setActivity .idle).setPending (.write 0x00 (BitVec.ofNat 8 (w % 2 ^ nbits)) :: s.host.pending)

end Sys2Proof.Machine
end

