-- ==== Sys2Proof/Safety.lean ====
section
/-! DEFINITION. The terms in which claims are stated: a responsive transport, the events a command may issue and how
they answer the transport, the legal values of `RESULT`, the invariants of the machine, and (in the namespace
Claims) the arithmetic of the rules written once more on plain integers, apart from the machine's own operators. -/

namespace Sys2Proof.Machine

/-! ## The transport and the event history -/

/-- No answer scheduled by the transport is the silent one: every operation returns (spec/20_memory.md R41). -/
abbrev Responsive (s : State) : Prop := Answer.silent ∉ s.bus.answers

/-- The event is a transport operation that returned FAIL (R27). -/
def isFailed : Event → Bool
  | .rd _ _ _ _ st => st == .fail
  | .wr _ _ _ st => st == .fail
  | .wt _ => false

/-- How many of the events are failed transport operations (spec/41_init_sequencer.md R63 b). -/
def failedOps (evs : List Event) : Nat := evs.countP isFailed

/-- The events are what the transport answers, one after another, from this bus on (R24 to R28, R35). -/
def answeredBy : Bus → List Event → Prop
  | _, [] => True
  | t, .rd dev reg n b st :: es => readReply t dev reg n = some (b, st) ∧ answeredBy (afterRead t dev reg n b st) es
  | t, .wr dev reg v st :: es => writeReply t = some st ∧ answeredBy (afterWrite t dev reg v st) es
  | t, .wt ms :: es => answeredBy (afterWait t ms) es

/-- The bus after the events. -/
def busAfter : Bus → List Event → Bus
  | t, [] => t
  | t, .rd dev reg n b st :: es => busAfter (afterRead t dev reg n b st) es
  | t, .wr dev reg v st :: es => busAfter (afterWrite t dev reg v st) es
  | t, .wt ms :: es => busAfter (afterWait t ms) es

/-- The event is a read of this length. -/
def isReadOf (len : Nat) : Event → Bool
  | .rd _ _ n _ _ => n == len
  | .wr _ _ _ _ => false
  | .wt _ => false

/-- The event is a write. -/
def isWrite : Event → Bool
  | .rd _ _ _ _ _ => false
  | .wr _ _ _ _ => true
  | .wt _ => false

/-- The blocks a command reads: device, start offset, length (R30, column "used by"). -/
def readsOf (p : Params) : Instr → List (DevAddr × RegOffset × Nat)
  | .initAcc => [(p.accAddr, p.accRegId, 1)]
  | .readAcc => [(p.accAddr, p.accRegData, 6)]
  | .initEnv => [(p.envAddr, p.envRegId, 1), (p.envAddr, p.calTpBase, 24), (p.envAddr, p.calHBase, 9)]
  | .loadCal => [(p.envAddr, p.calTpBase, 24), (p.envAddr, p.calHBase, 9)]
  | .readTemp => [(p.envAddr, p.envRegTemp, 3)]
  | .readPress => [(p.envAddr, p.envRegPress, 3)]
  | .readHum => [(p.envAddr, p.envRegHum, 2)]

/-- The bytes a command writes: device, offset, byte (R30, column "used by"). -/
def writesOf (p : Params) : Instr → List (DevAddr × RegOffset × Byte)
  | .initAcc => [(p.accAddr, p.accRegPower, p.accPowerByte)]
  | .readAcc => []
  | .initEnv =>
    (p.envAddr, p.envRegReset, p.envResetCmd) :: (p.envAddr, p.envRegConfig, p.envConfigByte) ::
      p.envModeWrites.map fun rv => (p.envAddr, rv.1, rv.2)
  | .loadCal => []
  | .readTemp => []
  | .readPress => []
  | .readHum => []

/-- The event is one that the address map lets the command issue (R30), a read with exactly its bytes (R24), a delay
of 100 in `INIT_ENV` alone (R26). -/
def allowedFor (p : Params) (i : Instr) : Event → Prop
  | .rd dev reg n b _ => (dev, reg, n) ∈ readsOf p i ∧ b.length = n
  | .wr dev reg v _ => (dev, reg, v) ∈ writesOf p i
  | .wt ms => i = .initEnv ∧ ms = 100

/-! ## RESULT -/

/-- The value of `RESULT` with these flags and this error count: `TRANSPORT_ERR` and `ERRCNT` from the count (R16). -/
def outcomeWord (flags count : Nat) : BitVec 16 :=
  BitVec.ofNat 16 (flags + (if count = 0 then 0 else 1 + 256 * count))

/-- The values of `RESULT` a command can end with, as spec/60_exceptions.md R87 tabulates them; `m` is the number of mode
writes. -/
def possibleResult (m : Nat) (i : Instr) (r : BitVec 16) : Prop :=
  match i with
  | .initAcc => r ∈ [0x0000#16, 0x0101#16, 0x0201#16, 0x0002#16, 0x0103#16]
  | .readAcc => r ∈ [0x0000#16, 0x0101#16]
  | .initEnv =>
    r ∈ [0x0000#16, 0x0002#16, 0x0103#16]
      ∨ (∃ k, 1 ≤ k ∧ k ≤ 3 + m ∧ r.toNat = 256 * k + 1) ∨ (∃ k, 1 ≤ k ∧ k ≤ 4 ∧ r.toNat = 256 * k + 5)
  | .loadCal => r ∈ [0x0000#16, 0x0105#16]
  | .readTemp => r ∈ [0x0000#16, 0x0101#16]
  | .readPress => r ∈ [0x0000#16, 0x0101#16, 0x0008#16, 0x0109#16]
  | .readHum => r ∈ [0x0000#16, 0x0101#16]

/-- What every value of `RESULT` satisfies: reserved bits read 0 (R16); `TRANSPORT_ERR` says that `ERRCNT` is not 0
(R16); `CAL_FAIL` comes with `TRANSPORT_ERR`, `ID_MISMATCH` excludes `CAL_FAIL`, `COMPUTE_ERR` comes with neither, and
`ILLEGAL_CMD` comes alone (R87). -/
def resultLegal (r : BitVec 16) : Bool :=
  resReserved r == 0
    && (resTransportErr r == (resErrCnt r != 0))
    && (!resCalFail r || resTransportErr r)
    && !(resIdMismatch r && resCalFail r)
    && !(resComputeErr r && (resIdMismatch r || resCalFail r))
    && (!resIllegalCmd r || r == 0x0010#16)

/-! ## Invariants -/

/-- Without valid calibration all 18 coefficient registers are zero (spec/42_cal_loader.md R71 b). -/
def calConsistent (s : State) : Bool := s.env.calValid || s.env.coefs == Coefs.zero

/-- What every step keeps: sensor memory in canonical form, coefficients never a usable partial set, `RESULT` legal. -/
def State.Inv (s : State) : Prop := s.bus.mem.wf = true ∧ calConsistent s = true ∧ resultLegal s.result = true

/-- In an IDLE engine with `CAL_VALID` = 1, the coefficients are the reassembly of one 24-byte and one 9-byte read that
both returned OK, one directly after the other, and no run of the loader came later: no later event reads 24 bytes
(R71 a). -/
def calProvenance (s : State) : Prop :=
  s.activity = .idle → s.env.calValid = true →
    ∃ pre post bt bh,
      s.bus.history =
        pre ++ [.rd s.cfg.envAddr s.cfg.calTpBase 24 bt .ok, .rd s.cfg.envAddr s.cfg.calHBase 9 bh .ok] ++ post ∧
      bt.length = 24 ∧ bh.length = 9 ∧ (∀ e ∈ post, isReadOf 24 e = false) ∧
      s.env.coefs = reassemble s.cfg.hLayout s.cfg.h45SignExtend bt bh

end Sys2Proof.Machine

namespace Sys2Proof.Claims

open Sys2Proof.Machine

/-! ## The rules' arithmetic on plain integers -/

/-- `wrap_sN(z)` by its definition (spec/40_arithmetic.md R53): the value in the signed range congruent to `z`. -/
def wrap (n : Nat) (z : Int) : Int :=
  if z % ((2 ^ n : Nat) : Int) < ((2 ^ (n - 1) : Nat) : Int) then z % ((2 ^ n : Nat) : Int)
  else z % ((2 ^ n : Nat) : Int) - ((2 ^ n : Nat) : Int)

/-- `as_sN(p)` (R56). -/
def asSigned (n p : Nat) : Int := if p < 2 ^ (n - 1) then (p : Int) else (p : Int) - ((2 ^ n : Nat) : Int)

/-- The quotient truncated toward zero by its definition (R57): `sign(a) * sign(b) * floor(|a| / |b|)`. -/
def quotient (a b : Int) : Int := a.sign * b.sign * ((a.natAbs / b.natAbs : Nat) : Int)

/-- The 12-bit field's value under `H45_SIGN_EXTEND` (R69). -/
def extended12 (signExtend : Bool) (p : Nat) : Int :=
  if signExtend = true ∧ 2048 ≤ p then (p : Int) - 4096 else (p : Int)

/-- `t_fine` of `CompT` (spec/44_decode_temperature_tfine.md R75). -/
def tFine (adcT T1 T2 T3 : Int) : Int :=
  let var1 := wrap 32 (wrap 32 (adcT / 8 - wrap 32 (T1 * 2)) * T2) / 2048
  let d := wrap 32 (adcT / 16 - T1)
  let var2 := wrap 32 (wrap 32 (d * d) / 4096 * T3) / 16384
  wrap 32 (var1 + var2)

/-- `T_int` of `CompT` (R75). -/
def tInt (tf : Int) : Int := wrap 32 (wrap 32 (tf * 5) + 128) / 256

/-- The divisor `var1` of `CompP` (spec/45_decode_pressure.md R79). -/
def pressDivisor (tf P1 P2 P3 : Int) : Int :=
  let v := wrap 64 (tf - 128000)
  let v2 := wrap 64 (wrap 64 (wrap 64 (v * v) * P3) / 256 + wrap 64 (wrap 64 (v * P2) * 4096))
  wrap 64 (wrap 64 (140737488355328 + v2) * P1) / 8589934592

/-- `var2` of `CompP` (R79). -/
def pressOffset (tf P4 P5 P6 : Int) : Int :=
  let v := wrap 64 (tf - 128000)
  let a := wrap 64 (wrap 64 (v * v) * P6)
  let b := wrap 64 (a + wrap 64 (wrap 64 (v * P5) * 131072))
  wrap 64 (b + wrap 64 (P4 * 34359738368))

/-- The u32 that `CompP` returns, for a divisor that is not zero (R79). -/
def pressValue (adcP var2 divisor P7 P8 P9 : Int) : Nat :=
  let p0 := wrap 64 (1048576 - adcP)
  let p := wrap 64 (quotient (wrap 64 (wrap 64 (wrap 64 (p0 * 2147483648) - var2) * 3125)) divisor)
  let w1 := wrap 64 (wrap 64 (P9 * (p / 8192)) * (p / 8192)) / 33554432
  let w2 := wrap 64 (P8 * p) / 524288
  let r := wrap 64 (wrap 64 (wrap 64 (p + w1) + w2) / 256 + wrap 64 (P7 * 16))
  (r % 4294967296).toNat

/-- `CompP` on the registers (R79): `none` is `DIVZERO`. -/
def press (adcP tf : Int) (c : Coefs) : Option Nat :=
  let divisor := pressDivisor tf c.digP1.toNat c.digP2.toInt c.digP3.toInt
  if divisor = 0 then none
  else
    some (pressValue adcP (pressOffset tf c.digP4.toInt c.digP5.toInt c.digP6.toInt) divisor c.digP7.toInt
      c.digP8.toInt c.digP9.toInt)

/-- `u` of `CompH`, the value before the clamp (spec/46_decode_humidity.md R82). -/
def humBeforeClamp (adcH tf H1 H2 H3 H4 H5 H6 : Int) : Int :=
  let v := wrap 32 (tf - 76800)
  let x := wrap 32 (wrap 32 (wrap 32 (wrap 32 (adcH * 16384) - wrap 32 (H4 * 1048576)) - wrap 32 (H5 * v)) + 16384)
    / 32768
  let y1 := wrap 32 (v * H6) / 1024
  let y2 := wrap 32 (wrap 32 (v * H3) / 2048 + 32768)
  let y3 := wrap 32 (wrap 32 (y1 * y2) / 1024 + 2097152)
  let y := wrap 32 (wrap 32 (y3 * H2) + 8192) / 16384
  let w := wrap 32 (x * y)
  let z := wrap 32 (wrap 32 (w / 32768 * (w / 32768)) / 128 * H1) / 16
  wrap 32 (w - z)

/-- `H_int` of `CompH` on the registers (R82): clamped to [0, 419430400], then shifted by 12. -/
def hum (adcH tf : Int) (c : Coefs) : Int :=
  let u := humBeforeClamp adcH tf c.digH1.toNat c.digH2.toInt c.digH3.toNat c.digH4.toInt c.digH5.toInt c.digH6.toInt
  (if u < 0 then 0 else if 419430400 < u then 419430400 else u) / 4096

/-- The u16 pattern of 16-bit field `j` of a block, low byte first (R31 a, R68). -/
def field16 (b : List Byte) (j : Nat) : Nat := (b.getD (2 * j + 1) 0).toNat * 256 + (b.getD (2 * j) 0).toNat

/-- The sample of axis `k` (R47). -/
def accSample (b : List Byte) (k : Nat) : Int := asSigned 16 (field16 b k)

/-- The 20-bit sample (R48). -/
def adc20 (b : List Byte) : Nat := (b.getD 0 0).toNat * 4096 + (b.getD 1 0).toNat * 16 + (b.getD 2 0).toNat / 16

/-- The 16-bit big-endian sample (R49). -/
def adcH (b : List Byte) : Nat := (b.getD 0 0).toNat * 256 + (b.getD 1 0).toNat

/-! ## The host register map -/

/-- The readable host registers and what each holds (spec/10_state.md R18, R12). -/
def registerMap (s : State) : List (Nat × HostValue) :=
  [(0x01, .u16 s.result), (0x02, .u8 (if s.env.calValid then 1 else 0)), (0x03, .s32 s.env.tFine),
    (0x04, .out s.acc.x), (0x05, .out s.acc.y), (0x06, .out s.acc.z),
    (0x07, .out s.env.temp), (0x08, .out s.env.press), (0x09, .out s.env.hum),
    (0x10, .u16 s.env.coefs.digT1), (0x11, .s16 s.env.coefs.digT2), (0x12, .s16 s.env.coefs.digT3),
    (0x13, .u16 s.env.coefs.digP1), (0x14, .s16 s.env.coefs.digP2), (0x15, .s16 s.env.coefs.digP3),
    (0x16, .s16 s.env.coefs.digP4), (0x17, .s16 s.env.coefs.digP5), (0x18, .s16 s.env.coefs.digP6),
    (0x19, .s16 s.env.coefs.digP7), (0x1A, .s16 s.env.coefs.digP8), (0x1B, .s16 s.env.coefs.digP9),
    (0x1C, .u8 s.env.coefs.digH1), (0x1D, .s16 s.env.coefs.digH2), (0x1E, .u8 s.env.coefs.digH3),
    (0x1F, .s16 s.env.coefs.digH4), (0x20, .s16 s.env.coefs.digH5), (0x21, .s8 s.env.coefs.digH6)]

/-- The seven command words (spec/30_encoding.md R43). -/
def commandWords : List (Byte × Instr) :=
  [(0x10#8, .initAcc), (0x11#8, .readAcc), (0x20#8, .initEnv), (0x21#8, .loadCal), (0x22#8, .readTemp),
    (0x23#8, .readPress), (0x24#8, .readHum)]

end Sys2Proof.Claims
end

