-- ==== Sys2Proof/Certificates/Slice0/Obligations.lean ====
section
/-! DEFINITION. The statements about the machine, from the spec's numbered rules. Each holds for every state, hence for
every parameter value, every transport answer and every host (spec/00_scope.md R6, spec/20_memory.md R40), unless its
hypotheses say otherwise. -/

open Sys2Proof Sys2Proof.Machine

/-! ## Command words -/

/-- spec/30_encoding.md R43: seven words decode to a command, each matching in all 8 bits. -/
def Obligations.SevenWordsAreTheCommands : Prop :=
  ∀ (w : Byte) (i : Instr), decode w = .command i ↔ (w, i) ∈ Claims.commandWords

/-- R45: the decoder is total; of the 256 words, seven decode to a command and 249 to illegal, so that none is a hint, a
no-operation or reserved. -/
def Obligations.DecoderIsTotal : Prop :=
  (∀ w : Byte, (∃ i, decode w = .command i) ∨ decode w = .illegal w) ∧
  ((List.range 256).filter fun k => decode (BitVec.ofNat 8 k) == .illegal (BitVec.ofNat 8 k)).length = 249 ∧
  ((List.range 256).filter fun k => decode (BitVec.ofNat 8 k) != .illegal (BitVec.ofNat 8 k)).length = 7

/-- Decode and encode agree, both ways, on every command. -/
def Obligations.DecodeInvertsEncode : Prop :=
  ∀ i : Instr, i.wf = true ∧ decode (encode i) = .command i ∧ ∀ w, decode w = .command i → w = encode i

/-- R46: when the host's next move writes a command's word to CMD of an IDLE engine, the step is that command, run on the
state from which the move is taken: the word is consumed by being run. -/
def Obligations.StepRunsDecodedCommand : Prop :=
  ∀ (s : State) (w : Byte) (i : Instr) (ms : List HostMove),
    s.cfg.wf = true → s.activity = .idle → s.host.pending = .write 0x00 w :: ms → decode w = .command i →
      step s = exec i { s with host := { s.host with pending := ms } }

/-- R44: each of the other 249 words is illegal; it changes RESULT to 0x0010 and nothing else (the host's move is taken),
and the engine is IDLE again. -/
def Obligations.IllegalWordSetsOnlyResult : Prop :=
  (∀ w : Byte, w ∉ Claims.commandWords.map Prod.fst → decode w = .illegal w) ∧
  ∀ (s : State) (w : Byte) (ms : List HostMove),
    s.cfg.wf = true → s.activity = .idle → s.host.pending = .write 0x00 w :: ms →
      w ∉ Claims.commandWords.map Prod.fst →
        step s = .next { s with result := 0x0010#16, host := { s.host with pending := ms } }

/-! ## The host, reset, and the stops -/

/-- An IDLE engine waits while the host makes no move (R98; the model's choice, log 14). -/
def Obligations.IdleEngineWaits : Prop :=
  ∀ s : State, s.cfg.wf = true → s.activity = .idle → s.host.pending = [] → step s = .next s

/-- spec/00_scope.md R7: a configuration that breaks one of its constraints is refused, and no other is. -/
def Obligations.BadConfigurationIsRefused : Prop :=
  ∀ s : State,
    (step s = .refused .badConfiguration ↔
      ¬(s.cfg.envAddr ≠ s.cfg.accAddr ∧
        s.cfg.calTpBase.toNat + 24 ≤ 256 ∧ s.cfg.calHBase.toNat + 9 ≤ 256 ∧
        s.cfg.envRegPress.toNat + 3 ≤ 256 ∧ s.cfg.envRegTemp.toNat + 3 ≤ 256 ∧ s.cfg.envRegHum.toNat + 2 ≤ 256 ∧
        s.cfg.accRegData.toNat + 6 ≤ 256 ∧
        [s.cfg.hLayout.h2Lo, s.cfg.hLayout.h2Hi, s.cfg.hLayout.h3, s.cfg.hLayout.h4Hi, s.cfg.hLayout.h45,
          s.cfg.hLayout.h5Hi, s.cfg.hLayout.h6, s.cfg.hLayout.h1].Pairwise (· ≠ ·) ∧
        1 ≤ s.cfg.envModeWrites.length ∧ s.cfg.envModeWrites.length ≤ 16))

/-- spec/10_state.md R18: the host register map. A read of a listed register returns its contents without side effect; a
read of CMD or of an unlisted number, and a write to any register but CMD, is refused; a write to CMD issues the command
word, which runs its command or raises ILLEGAL_CMD (spec/30_encoding.md R46, R44). No move is taken while the engine is BUSY.
The model's own choices in it: the value a read returns stands in `host.data` (log 15), and the step of a BUSY engine is the
fault transportSilent (log 6). -/
def Obligations.HostRegisterMap : Prop :=
  ∀ (s : State) (reg : Nat) (v : Byte) (ms : List HostMove), s.cfg.wf = true →
    (s.activity = .idle → s.host.pending = .read reg :: ms →
      (∀ val, (reg, val) ∈ Claims.registerMap s →
        step s = .next { s with host := { pending := ms, data := some val } }) ∧
      (reg ∉ (Claims.registerMap s).map Prod.fst → step s = .refused (.hostRead reg))) ∧
    (s.activity = .idle → s.host.pending = .write reg v :: ms →
      (reg ≠ 0x00 → step s = .refused (.hostWrite reg)) ∧
      (reg = 0x00 →
        (∀ i, decode v = .command i → step s = exec i { s with host := { s.host with pending := ms } }) ∧
        (decode v = .illegal v →
          step s = .next { s with result := 0x0010#16, host := { s.host with pending := ms } }))) ∧
    (s.activity = .busy → step s = .fault .transportSilent)

/-- spec/10_state.md R23 and spec/70_reset_and_hazards.md R98: what reset leaves, at power-on with the default parameters
and by the reset event with any; it issues no transport operation. Nothing is said of t_fine, which R23 leaves open. -/
def Obligations.ResetLeavesTableValues : Prop :=
  (State.reset.acc = ⟨.binary32 0, .binary32 0, .binary32 0⟩ ∧ State.reset.env.coefs = Coefs.zero ∧
    State.reset.env.calValid = false ∧ State.reset.env.temp = .binary32 0 ∧ State.reset.env.press = .binary32 0 ∧
    State.reset.env.hum = .binary32 0 ∧ State.reset.result = 0x0000#16 ∧ State.reset.activity = .idle ∧
    froundBinary32 0 = 0x00000000#32) ∧
  ∀ (s : State) (ms : List HostMove),
    s.cfg.wf = true → s.activity = .idle → s.host.pending = .reset :: ms →
      ∃ t, step s = .next t ∧
        t.acc = ⟨fround s.cfg.fround 0, fround s.cfg.fround 0, fround s.cfg.fround 0⟩ ∧
        t.env.coefs = Coefs.zero ∧ t.env.calValid = false ∧ t.env.temp = fround s.cfg.fround 0 ∧
        t.env.press = fround s.cfg.fround 0 ∧ t.env.hum = fround s.cfg.fround 0 ∧ t.result = 0x0000#16 ∧
        t.activity = .idle ∧ t.cfg = s.cfg ∧ t.bus.history = s.bus.history ∧ t.bus.mem = s.bus.mem ∧
        t.bus.answers = s.bus.answers ∧ t.host = { s.host with pending := ms }

/-- spec/20_memory.md R41: if the transport never answers a command's first operation, the engine stays BUSY with every
register as it was, and no later step leaves the command (the model's choice of form, log 6). -/
def Obligations.UnansweredOperationLeavesEngineStuck : Prop :=
  ∀ (i : Instr) (s : State) (rest : List Answer), s.cfg.wf = true → s.bus.answers = .silent :: rest →
    exec i s = .next { s with activity := .busy } ∧
      step { s with activity := .busy } = .fault .transportSilent

/-- R41, R46, R91: if every operation returns, every command comes to its end and the engine is IDLE again. -/
def Obligations.ResponsiveTransportCompletes : Prop :=
  ∀ (i : Instr) (s : State), Responsive s →
    ∃ t, exec i s = .next t ∧ t.activity = .idle ∧ Responsive t

/-- spec/20_memory.md R24, R25, R40: when the transport answers from the reference sensor memory, a read returns the bytes at
the consecutive offsets with status OK, and a write that succeeds stores its byte at its one location. -/
def Obligations.SensorMemoryAnswers : Prop :=
  ∀ (t : Bus) (rest : List Answer) (dev : DevAddr) (reg : RegOffset) (n : Nat) (v : Byte),
    t.answers = .memory :: rest →
      (∃ b, readReply t dev reg n = some (b, .ok) ∧ b.length = n ∧
        ∀ i, i < n → b.getD i 0 = memGet t.mem (sensorAddr dev (reg + BitVec.ofNat 8 i))) ∧
      writeReply t = some .ok ∧
      (t.mem.wf = true → memGet (afterWrite t dev reg v .ok).mem (sensorAddr dev reg) = v) ∧
      (∀ a, a ≠ sensorAddr dev reg → memGet (afterWrite t dev reg v .ok).mem a = memGet t.mem a)

/-! ## Operators -/

/-- spec/40_arithmetic.md R54 with R53: addition, subtraction and multiplication wrap. -/
def Obligations.WrapAroundArithmetic : Prop :=
  ∀ (n : Nat) (a b : BitVec n), 0 < n →
    (addS a b).toInt = Claims.wrap n (a.toInt + b.toInt) ∧
    (subS a b).toInt = Claims.wrap n (a.toInt - b.toInt) ∧
    (mulS a b).toInt = Claims.wrap n (a.toInt * b.toInt)

/-- R55: the left shifts wrap, the arithmetic right shift is floor division and the logical one natural division. -/
def Obligations.ShiftsFloorAndWrap : Prop :=
  ∀ (n k : Nat) (a : BitVec n), k < n →
    (shlS a k).toInt = Claims.wrap n (a.toInt * ((2 ^ k : Nat) : Int)) ∧
    (sra a k).toInt = Int.fdiv a.toInt ((2 ^ k : Nat) : Int) ∧
    (shlU a k).toNat = a.toNat * 2 ^ k % 2 ^ n ∧
    (srl a k).toNat = a.toNat / 2 ^ k

/-- R56: widening keeps the integer, truncation keeps the low bits, and reading a pattern as signed subtracts 2^N from its
upper half. -/
def Obligations.WidthConversions : Prop :=
  ∀ (m n : Nat) (a : BitVec m), 0 < m →
    (m ≤ n → (zext n a).toNat = a.toNat) ∧ (m < n → (zext n a).toInt = a.toNat) ∧
    (m ≤ n → (sext n a).toInt = a.toInt) ∧ (trunc n a).toNat = a.toNat % 2 ^ n ∧
    a.toInt = Claims.asSigned m a.toNat ∧ (a.toNat : Int) = (if 0 ≤ a.toInt then a.toInt else a.toInt + 2 ^ m)

/-- R57: the 64-bit division truncates toward zero, and -2^63 by -1 is -2^63. -/
def Obligations.DivisionTruncatesTowardZero : Prop :=
  ∀ a b : BitVec 64, b.toInt ≠ 0 →
    (a.toInt = -9223372036854775808 ∧ b.toInt = -1 → (divS a b).toInt = -9223372036854775808) ∧
    (¬(a.toInt = -9223372036854775808 ∧ b.toInt = -1) →
      (divS a b).toInt = a.toInt.sign * b.toInt.sign * ((a.toInt.natAbs / b.toInt.natAbs : Nat) : Int))

/-! ## Samples and coefficient blocks -/

/-- spec/30_encoding.md R47: each axis is the signed little-endian pair of its two bytes. -/
def Obligations.AccelerationSampleFormat : Prop :=
  ∀ x0 x1 y0 y1 z0 z1 : Byte,
    (accRaw [x0, x1, y0, y1, z0, z1] 0).toInt = Claims.asSigned 16 (x1.toNat * 256 + x0.toNat) ∧
    (accRaw [x0, x1, y0, y1, z0, z1] 1).toInt = Claims.asSigned 16 (y1.toNat * 256 + y0.toNat) ∧
    (accRaw [x0, x1, y0, y1, z0, z1] 2).toInt = Claims.asSigned 16 (z1.toNat * 256 + z0.toNat)

/-- R48: 20 bits, most significant byte first; the low nibble of the third byte is discarded. -/
def Obligations.TemperaturePressureSampleFormat : Prop :=
  ∀ b0 b1 b2 : Byte,
    (adc20 [b0, b1, b2]).toInt = (b0.toNat * 4096 + b1.toNat * 16 + b2.toNat / 16 : Nat) ∧
    0 ≤ (adc20 [b0, b1, b2]).toInt ∧ (adc20 [b0, b1, b2]).toInt ≤ 1048575

/-- R49: 16 bits, big-endian. -/
def Obligations.HumiditySampleFormat : Prop :=
  ∀ b0 b1 : Byte,
    (adcH [b0, b1]).toInt = (b0.toNat * 256 + b1.toNat : Nat) ∧
    0 ≤ (adcH [b0, b1]).toInt ∧ (adcH [b0, b1]).toInt ≤ 65535

/-- spec/42_cal_loader.md R68: the twelve fields of the 24-byte block, little-endian, T1 and P1 unsigned. -/
def Obligations.TemperaturePressureBlockLayout : Prop :=
  ∀ (l : HLayout) (x : Bool) (bt bh : List Byte),
    (reassemble l x bt bh).digT1.toNat = Claims.field16 bt 0 ∧
    (reassemble l x bt bh).digT2.toInt = Claims.asSigned 16 (Claims.field16 bt 1) ∧
    (reassemble l x bt bh).digT3.toInt = Claims.asSigned 16 (Claims.field16 bt 2) ∧
    (reassemble l x bt bh).digP1.toNat = Claims.field16 bt 3 ∧
    (reassemble l x bt bh).digP2.toInt = Claims.asSigned 16 (Claims.field16 bt 4) ∧
    (reassemble l x bt bh).digP3.toInt = Claims.asSigned 16 (Claims.field16 bt 5) ∧
    (reassemble l x bt bh).digP4.toInt = Claims.asSigned 16 (Claims.field16 bt 6) ∧
    (reassemble l x bt bh).digP5.toInt = Claims.asSigned 16 (Claims.field16 bt 7) ∧
    (reassemble l x bt bh).digP6.toInt = Claims.asSigned 16 (Claims.field16 bt 8) ∧
    (reassemble l x bt bh).digP7.toInt = Claims.asSigned 16 (Claims.field16 bt 9) ∧
    (reassemble l x bt bh).digP8.toInt = Claims.asSigned 16 (Claims.field16 bt 10) ∧
    (reassemble l x bt bh).digP9.toInt = Claims.asSigned 16 (Claims.field16 bt 11)

/-- R69: the six humidity coefficients of the 9-byte block, under every H_LAYOUT and both values of H45_SIGN_EXTEND; the
shared byte gives its low nibble to dig_H4 and its high nibble to dig_H5. -/
def Obligations.HumidityBlockLayout : Prop :=
  ∀ (l : HLayout) (x : Bool) (bt bh : List Byte),
    (reassemble l x bt bh).digH1.toNat = (bh.getD l.h1 0).toNat ∧
    (reassemble l x bt bh).digH2.toInt =
      Claims.asSigned 16 ((bh.getD l.h2Hi 0).toNat * 256 + (bh.getD l.h2Lo 0).toNat) ∧
    (reassemble l x bt bh).digH3.toNat = (bh.getD l.h3 0).toNat ∧
    (reassemble l x bt bh).digH4.toInt =
      Claims.extended12 x ((bh.getD l.h4Hi 0).toNat * 16 + (bh.getD l.h45 0).toNat % 16) ∧
    (reassemble l x bt bh).digH5.toInt =
      Claims.extended12 x ((bh.getD l.h5Hi 0).toNat * 16 + (bh.getD l.h45 0).toNat / 16) ∧
    (reassemble l x bt bh).digH6.toInt = Claims.asSigned 8 (bh.getD l.h6 0).toNat

/-! ## The compensation formulas on plain integers -/

/-- spec/44_decode_temperature_tfine.md R75: CompT computes the rule's integer expressions for every operand. -/
def Obligations.TemperatureFormula : Prop :=
  ∀ (adcT tf : BitVec 32) (t1 t2 t3 : BitVec 16),
    (compTFine adcT t1 t2 t3).toInt = Claims.tFine adcT.toInt t1.toNat t2.toInt t3.toInt ∧
    (compTInt tf).toInt = Claims.tInt tf.toInt

/-- spec/45_decode_pressure.md R79: CompP computes the rule's integer expressions for every operand, or reports a zero
divisor. -/
def Obligations.PressureFormula : Prop :=
  ∀ (adcP tf : BitVec 32) (c : Coefs),
    (compP adcP tf c).map BitVec.toNat = Claims.press adcP.toInt tf.toInt c

/-- spec/46_decode_humidity.md R82: CompH computes the rule's integer expressions, clamp included, for every operand. -/
def Obligations.HumidityFormula : Prop :=
  ∀ (adc tf : BitVec 32) (c : Coefs), (compH adc tf c).toInt = Claims.hum adc.toInt tf.toInt c

/-! ## The commands: completion, results and events

`answeredBy` says that the events are the transport's own answers from the command's start on, and `busAfter` is the bus
after them. -/

/-- spec/41_init_sequencer.md R64: INIT_ACC completes; on a mismatch the identity read is its only event; otherwise the
power byte is written. No register but RESULT changes. -/
def Obligations.InitAccOutcome : Prop :=
  decode 0x10#8 = .command .initAcc ∧
  ∀ s : State, Responsive s →
    ∃ b st evs t, exec .initAcc s = .next t ∧ t.activity = .idle ∧ t.acc = s.acc ∧ t.env = s.env ∧ t.cfg = s.cfg ∧
      t.host = s.host ∧ answeredBy s.bus evs ∧ t.bus = busAfter s.bus evs ∧ t.bus.history = s.bus.history ++ evs ∧
      ((b ≠ s.cfg.accIdValue ∧ evs = [.rd s.cfg.accAddr s.cfg.accRegId 1 [b] st] ∧
          t.result = outcomeWord 0x0002 (failedOps evs)) ∨
       (b = s.cfg.accIdValue ∧
          (∃ st2, evs = [.rd s.cfg.accAddr s.cfg.accRegId 1 [b] st,
            .wr s.cfg.accAddr s.cfg.accRegPower s.cfg.accPowerByte st2]) ∧
          t.result = outcomeWord 0x0000 (failedOps evs)))

/-- R65: INIT_ENV completes on one of four paths, in the order of the rule: mismatch; first block failed; second block
failed; the full sequence with every mode write in list order. The delay of 100 follows the reset write whatever its
status. t_fine and the outputs are never touched. -/
def Obligations.InitEnvOutcome : Prop :=
  decode 0x20#8 = .command .initEnv ∧
  ∀ s : State, Responsive s →
    ∃ b st evs t, exec .initEnv s = .next t ∧ t.activity = .idle ∧ t.acc = s.acc ∧ t.cfg = s.cfg ∧ t.host = s.host ∧
      t.env.tFine = s.env.tFine ∧ t.env.temp = s.env.temp ∧ t.env.press = s.env.press ∧ t.env.hum = s.env.hum ∧
      answeredBy s.bus evs ∧ t.bus = busAfter s.bus evs ∧ t.bus.history = s.bus.history ++ evs ∧
      ((b ≠ s.cfg.envIdValue ∧ evs = [.rd s.cfg.envAddr s.cfg.envRegId 1 [b] st] ∧
          t.env.coefs = s.env.coefs ∧ t.env.calValid = s.env.calValid ∧
          t.result = outcomeWord 0x0002 (failedOps evs)) ∨
       (b = s.cfg.envIdValue ∧
          ∃ st2 st3 bt st4 more,
            evs = [.rd s.cfg.envAddr s.cfg.envRegId 1 [b] st, .wr s.cfg.envAddr s.cfg.envRegReset s.cfg.envResetCmd st2,
              .wt 100, .wr s.cfg.envAddr s.cfg.envRegConfig s.cfg.envConfigByte st3,
              .rd s.cfg.envAddr s.cfg.calTpBase 24 bt st4] ++ more ∧
            ((st4 = .fail ∧ more = [] ∧ t.env.coefs = Coefs.zero ∧ t.env.calValid = false ∧
                t.result = outcomeWord 0x0004 (failedOps evs)) ∨
             (st4 = .ok ∧ ∃ bh st5 rest, more = .rd s.cfg.envAddr s.cfg.calHBase 9 bh st5 :: rest ∧
               ((st5 = .fail ∧ rest = [] ∧ t.env.coefs = Coefs.zero ∧ t.env.calValid = false ∧
                  t.result = outcomeWord 0x0004 (failedOps evs)) ∨
                (st5 = .ok ∧ t.env.coefs = reassemble s.cfg.hLayout s.cfg.h45SignExtend bt bh ∧
                  t.env.calValid = true ∧ t.result = outcomeWord 0x0000 (failedOps evs) ∧
                  ∃ sts : List Status, sts.length = s.cfg.envModeWrites.length ∧
                    rest = List.zipWith (fun rv st' => Event.wr s.cfg.envAddr rv.1 rv.2 st') s.cfg.envModeWrites
                      sts))))))

/-- spec/42_cal_loader.md R67 with R70: LOAD_CAL completes; either both blocks were read and all 18 coefficients are their
reassembly, or the first failed read ended it with all 18 zero, CAL_VALID cleared and RESULT 0x0105. -/
def Obligations.LoadCalOutcome : Prop :=
  decode 0x21#8 = .command .loadCal ∧
  ∀ s : State, Responsive s →
    ∃ bt st evs t, exec .loadCal s = .next t ∧ t.activity = .idle ∧ t.acc = s.acc ∧ t.cfg = s.cfg ∧ t.host = s.host ∧
      t.env.tFine = s.env.tFine ∧ t.env.temp = s.env.temp ∧ t.env.press = s.env.press ∧ t.env.hum = s.env.hum ∧
      answeredBy s.bus evs ∧ t.bus = busAfter s.bus evs ∧ t.bus.history = s.bus.history ++ evs ∧
      ((st = .fail ∧ evs = [.rd s.cfg.envAddr s.cfg.calTpBase 24 bt st] ∧ t.env.coefs = Coefs.zero ∧
          t.env.calValid = false ∧ t.result = 0x0105#16) ∨
       (st = .ok ∧ ∃ bh st2,
          evs = [.rd s.cfg.envAddr s.cfg.calTpBase 24 bt st, .rd s.cfg.envAddr s.cfg.calHBase 9 bh st2] ∧
          ((st2 = .fail ∧ t.env.coefs = Coefs.zero ∧ t.env.calValid = false ∧ t.result = 0x0105#16) ∨
           (st2 = .ok ∧ t.env.coefs = reassemble s.cfg.hLayout s.cfg.h45SignExtend bt bh ∧ t.env.calValid = true ∧
              t.result = 0x0000#16))))

/-- spec/43_decode_acceleration.md R72 with R73 and R47: READ_ACC completes; whatever the status of its one read, the three
outputs are fround of the exact raw * 39 / 10000. -/
def Obligations.ReadAccOutcome : Prop :=
  decode 0x11#8 = .command .readAcc ∧
  ∀ s : State, Responsive s →
    ∃ b st t, readReply s.bus s.cfg.accAddr s.cfg.accRegData 6 = some (b, st) ∧ b.length = 6 ∧
      exec .readAcc s = .next t ∧ t.activity = .idle ∧ t.env = s.env ∧ t.cfg = s.cfg ∧ t.host = s.host ∧
      t.acc.x = fround s.cfg.fround (mkRat (Claims.accSample b 0 * 39) 10000) ∧
      t.acc.y = fround s.cfg.fround (mkRat (Claims.accSample b 1 * 39) 10000) ∧
      t.acc.z = fround s.cfg.fround (mkRat (Claims.accSample b 2 * 39) 10000) ∧
      t.result = (if st = .ok then 0x0000#16 else 0x0101#16) ∧
      t.bus = busAfter s.bus [.rd s.cfg.accAddr s.cfg.accRegData 6 b st] ∧
      t.bus.history = s.bus.history ++ [.rd s.cfg.accAddr s.cfg.accRegData 6 b st]

/-- spec/44_decode_temperature_tfine.md R74 with R75 and R48: READ_TEMP completes; whatever the status of its one read,
t_fine and TEMP are computed from the bytes and c[0..2]. -/
def Obligations.ReadTempOutcome : Prop :=
  decode 0x22#8 = .command .readTemp ∧
  ∀ s : State, Responsive s →
    ∃ b st t, readReply s.bus s.cfg.envAddr s.cfg.envRegTemp 3 = some (b, st) ∧ b.length = 3 ∧
      exec .readTemp s = .next t ∧ t.activity = .idle ∧ t.acc = s.acc ∧ t.cfg = s.cfg ∧ t.host = s.host ∧
      t.env.coefs = s.env.coefs ∧ t.env.calValid = s.env.calValid ∧ t.env.press = s.env.press ∧
      t.env.hum = s.env.hum ∧
      t.env.tFine.toInt = Claims.tFine (Claims.adc20 b) s.env.coefs.digT1.toNat s.env.coefs.digT2.toInt
        s.env.coefs.digT3.toInt ∧
      t.env.temp = fround s.cfg.fround (mkRat (Claims.tInt t.env.tFine.toInt) 100) ∧
      t.result = (if st = .ok then 0x0000#16 else 0x0101#16) ∧
      t.bus = busAfter s.bus [.rd s.cfg.envAddr s.cfg.envRegTemp 3 b st] ∧
      t.bus.history = s.bus.history ++ [.rd s.cfg.envAddr s.cfg.envRegTemp 3 b st]

/-- spec/45_decode_pressure.md R78 with R79 and R48: READ_PRESS completes; the read is always issued; on a zero divisor
COMPUTE_ERR is reported and the ENV handle is untouched, otherwise PRESS is fround of the exact r / 256. -/
def Obligations.ReadPressOutcome : Prop :=
  decode 0x23#8 = .command .readPress ∧
  ∀ s : State, Responsive s →
    ∃ b st t, readReply s.bus s.cfg.envAddr s.cfg.envRegPress 3 = some (b, st) ∧ b.length = 3 ∧
      exec .readPress s = .next t ∧ t.activity = .idle ∧ t.acc = s.acc ∧ t.cfg = s.cfg ∧ t.host = s.host ∧
      t.bus = busAfter s.bus [.rd s.cfg.envAddr s.cfg.envRegPress 3 b st] ∧
      t.bus.history = s.bus.history ++ [.rd s.cfg.envAddr s.cfg.envRegPress 3 b st] ∧
      (match Claims.press (Claims.adc20 b) s.env.tFine.toInt s.env.coefs with
        | none => t.env = s.env ∧ t.result = (if st = .ok then 0x0008#16 else 0x0109#16)
        | some r =>
          t.env = { s.env with press := fround s.cfg.fround (mkRat r 256) } ∧
            t.result = (if st = .ok then 0x0000#16 else 0x0101#16))

/-- spec/46_decode_humidity.md R81 with R82 and R49: READ_HUM completes; whatever the status of its one read, HUM is fround
of the exact H_int / 1024. -/
def Obligations.ReadHumOutcome : Prop :=
  decode 0x24#8 = .command .readHum ∧
  ∀ s : State, Responsive s →
    ∃ b st t, readReply s.bus s.cfg.envAddr s.cfg.envRegHum 2 = some (b, st) ∧ b.length = 2 ∧
      exec .readHum s = .next t ∧ t.activity = .idle ∧ t.acc = s.acc ∧ t.cfg = s.cfg ∧ t.host = s.host ∧
      t.env = { s.env with
        hum := fround s.cfg.fround (mkRat (Claims.hum (Claims.adcH b) s.env.tFine.toInt s.env.coefs) 1024) } ∧
      t.result = (if st = .ok then 0x0000#16 else 0x0101#16) ∧
      t.bus = busAfter s.bus [.rd s.cfg.envAddr s.cfg.envRegHum 2 b st] ∧
      t.bus.history = s.bus.history ++ [.rd s.cfg.envAddr s.cfg.envRegHum 2 b st]

/-! ## Frames -/

/-- spec/10_state.md R22, the columns "w" and "-": which command may write which register. The parameters and the host's
port are never written. -/
def Obligations.CommandsWriteOnlyTheirRegisters : Prop :=
  ∀ (i : Instr) (s t : State), exec i s = .next t →
    (i ≠ .readAcc → t.acc = s.acc) ∧
    (i ≠ .initEnv → i ≠ .loadCal → t.env.coefs = s.env.coefs ∧ t.env.calValid = s.env.calValid) ∧
    (i ≠ .readTemp → t.env.tFine = s.env.tFine ∧ t.env.temp = s.env.temp) ∧
    (i ≠ .readPress → t.env.press = s.env.press) ∧
    (i ≠ .readHum → t.env.hum = s.env.hum) ∧
    t.cfg = s.cfg ∧ t.host = s.host

/-- The four read commands and LOAD_CAL store nothing: every byte of sensor memory reads as before. -/
def Obligations.ReadCommandsStoreNothing : Prop :=
  ∀ (i : Instr) (s t : State), i ∈ [Instr.readAcc, .loadCal, .readTemp, .readPress, .readHum] →
    exec i s = .next t → ∀ a, memGet t.bus.mem a = memGet s.bus.mem a

/-- INIT_ACC stores at the power-control register alone. -/
def Obligations.InitAccStoresOnlyPowerByte : Prop :=
  ∀ s t : State, exec .initAcc s = .next t →
    (∀ a, a ≠ sensorAddr s.cfg.accAddr s.cfg.accRegPower → memGet t.bus.mem a = memGet s.bus.mem a) ∧
    (s.bus.mem.wf = true →
      memGet t.bus.mem (sensorAddr s.cfg.accAddr s.cfg.accRegPower) = s.cfg.accPowerByte ∨
      memGet t.bus.mem (sensorAddr s.cfg.accAddr s.cfg.accRegPower) =
        memGet s.bus.mem (sensorAddr s.cfg.accAddr s.cfg.accRegPower))

/-- INIT_ENV stores at the reset, configuration and mode registers alone. -/
def Obligations.InitEnvStoresOnlyItsRegisters : Prop :=
  ∀ s t : State, exec .initEnv s = .next t → ∀ a,
    a ≠ sensorAddr s.cfg.envAddr s.cfg.envRegReset → a ≠ sensorAddr s.cfg.envAddr s.cfg.envRegConfig →
    a ∉ s.cfg.envModeWrites.map (fun rv => sensorAddr s.cfg.envAddr rv.1) →
      memGet t.bus.mem a = memGet s.bus.mem a

/-! ## Rules of the whole machine -/

/-- spec/20_memory.md R30, R33, R38: whatever the path, the events a command issues are the transport's answers in order,
each at a location the address map gives that command, and nothing else happens to the bus. -/
def Obligations.CommandsIssueOnlyTheirOperations : Prop :=
  ∀ (i : Instr) (s t : State), exec i s = .next t →
    ∃ evs, t.bus.history = s.bus.history ++ evs ∧ answeredBy s.bus evs ∧ t.bus = busAfter s.bus evs ∧
      ∀ e ∈ evs, allowedFor s.cfg i e

/-- spec/41_init_sequencer.md R63 b and c: whatever the command and the path, ERRCNT is the number of its transport
operations that returned FAIL, and TRANSPORT_ERR says whether that number is not 0. -/
def Obligations.ErrCntCountsFailedOperations : Prop :=
  ∀ (i : Instr) (s t : State), s.cfg.wf = true → exec i s = .next t → t.activity = .idle →
    ∃ evs, t.bus.history = s.bus.history ++ evs ∧ (resErrCnt t.result).toNat = failedOps evs ∧
      resTransportErr t.result = decide (failedOps evs ≠ 0)

/-- spec/60_exceptions.md R87: the values RESULT can have at the end of each command, and of an illegal word. -/
def Obligations.ResultValuesAreTheTabulated : Prop :=
  (∀ (i : Instr) (s t : State), s.cfg.wf = true → exec i s = .next t → t.activity = .idle →
    possibleResult s.cfg.envModeWrites.length i t.result) ∧
  ∀ s : State, (illegalCommand s).result = 0x0010#16

/-- spec/10_state.md R11: no command of one handle reads or writes a register of the other. -/
def Obligations.HandlesAreIndependent : Prop :=
  ∀ (i : Instr) (s t : State), exec i s = .next t →
    (i.handle = .acc → ∀ e : EnvHandle, exec i { s with env := e } = .next { t with env := e }) ∧
    (i.handle = .env → ∀ a : AccHandle, exec i { s with acc := a } = .next { t with acc := a })

/-- R16, spec/60_exceptions.md R89: a command that ends replaces RESULT whole and does not depend on its old value. -/
def Obligations.CommandsIgnoreOldResult : Prop :=
  ∀ (i : Instr) (s t : State) (r : BitVec 16), exec i s = .next t → t.activity = .idle →
    exec i { s with result := r } = .next t

/-- R13, spec/70_reset_and_hazards.md R101: no decoder reads CAL_VALID. -/
def Obligations.DecodersIgnoreCalValid : Prop :=
  ∀ (i : Instr) (s t : State) (v : Bool), i ∈ [Instr.readTemp, .readPress, .readHum] → exec i s = .next t →
    exec i { s with env := { s.env with calValid := v } } = .next { t with env := { t.env with calValid := v } }

/-- R15: no command reads an output register. With other values in the six of them, everything else ends the same; an output
that the command writes ends the same too, and one that it does not write keeps the value given: it belongs to another
command, or the transport never answered, or READ_PRESS raised COMPUTE_ERR (spec/45_decode_pressure.md R78). -/
def Obligations.CommandsIgnoreOutputs : Prop :=
  ∀ (i : Instr) (s t : State) (a : AccHandle) (temp press hum : OutValue), exec i s = .next t →
    ∃ t', exec i { s with acc := a, env := { s.env with temp := temp, press := press, hum := hum } } = .next t' ∧
      t'.env.coefs = t.env.coefs ∧ t'.env.calValid = t.env.calValid ∧ t'.env.tFine = t.env.tFine ∧
      t'.result = t.result ∧ t'.activity = t.activity ∧ t'.bus = t.bus ∧ t'.cfg = t.cfg ∧ t'.host = t.host ∧
      t'.acc = (if i = .readAcc ∧ t.activity = .idle then t.acc else a) ∧
      t'.env.temp = (if i = .readTemp ∧ t.activity = .idle then t.env.temp else temp) ∧
      t'.env.press =
        (if i = .readPress ∧ t.activity = .idle ∧ resComputeErr t.result = false then t.env.press else press) ∧
      t'.env.hum = (if i = .readHum ∧ t.activity = .idle then t.env.hum else hum)

/-- The invariant holds after reset. -/
def Obligations.InvariantHoldsAtReset : Prop := State.reset.Inv

/-- Every step keeps the invariant: sensor memory in canonical form, coefficients zero whenever CAL_VALID is 0
(spec/42_cal_loader.md R71 b, c), and RESULT legal (R16, R87). -/
def Obligations.EveryStepKeepsInvariant : Prop :=
  ∀ s t : State, s.Inv → step s = .next t → t.Inv

/-- After reset nothing is claimed calibrated. -/
def Obligations.CalibrationProvenanceHoldsAtReset : Prop := calProvenance State.reset

/-- spec/42_cal_loader.md R71 a: every step keeps that CAL_VALID = 1 means coefficients reassembled from the two block
reads of the loader's last run, both OK. -/
def Obligations.EveryStepKeepsCalibrationProvenance : Prop :=
  ∀ s t : State, calProvenance s → step s = .next t → calProvenance t

/-- R30, R20: every step keeps the whole history inside the address map: "These are all the locations the engine ever
accesses." -/
def Obligations.EveryStepKeepsAddressMap : Prop :=
  ∀ s t : State, (∀ e ∈ s.bus.history, ∃ i, allowedFor s.cfg i e) → step s = .next t →
    ∀ e ∈ t.bus.history, ∃ i, allowedFor t.cfg i e

/-- spec/44_decode_temperature_tfine.md R76 a, spec/10_state.md R14, R23: a step changes t_fine only if it runs READ_TEMP or
takes the reset event. -/
def Obligations.TFineChangesOnlyByReadTempOrReset : Prop :=
  ∀ s t : State, step s = .next t →
    t.env.tFine = s.env.tFine ∨ (∃ ms, s.host.pending = .write 0x00 0x22#8 :: ms) ∨
      (∃ ms, s.host.pending = .reset :: ms)

/-- spec/00_scope.md R6: no step changes a parameter, takes back an event, or runs on parameters that break R7. -/
def Obligations.StepsKeepParametersAndHistory : Prop :=
  ∀ s t : State, step s = .next t →
    t.cfg = s.cfg ∧ t.cfg.wf = true ∧ ∃ evs, t.bus.history = s.bus.history ++ evs ∧ evs.length ≤ 22

/-! ## Rules of the decoders -/

/-- spec/42_cal_loader.md R71 d, spec/70_reset_and_hazards.md R101: with all coefficients zero the decoders run and give
fixed results: t_fine 0 and TEMP of 0; COMPUTE_ERR and PRESS unchanged; HUM of 0. -/
def Obligations.UncalibratedDecodesAreFixed : Prop :=
  ∀ (i : Instr) (s t : State), s.env.coefs = Coefs.zero → exec i s = .next t → t.activity = .idle →
    (i = .readTemp → t.env.tFine = 0 ∧ t.env.temp = fround s.cfg.fround 0) ∧
    (i = .readPress → resComputeErr t.result = true ∧ t.env.press = s.env.press) ∧
    (i = .readHum → t.env.hum = fround s.cfg.fround 0)

/-- spec/46_decode_humidity.md R83: for every sample, every t_fine and all coefficients, 0 <= H_int <= 102400; so under any
monotone conversion, and under every `fround` of the model, HUM lies between those of 0 and 100, and under the default
between 0.0 and 100.0. -/
def Obligations.HumidityBound : Prop :=
  ∀ (adc tf : BitVec 32) (c : Coefs),
    0 ≤ (compH adc tf c).toInt ∧ (compH adc tf c).toInt ≤ 102400 ∧
    (∀ fr : Rat → Rat, (∀ p q, p ≤ q → fr p ≤ fr q) →
      fr 0 ≤ fr (mkRat (compH adc tf c).toInt 1024) ∧ fr (mkRat (compH adc tf c).toInt 1024) ≤ fr 100) ∧
    (∀ choice : FroundChoice,
      (numberOf (fround choice 0)).le (numberOf (humOutput choice (compH adc tf c))) = true ∧
        (numberOf (humOutput choice (compH adc tf c))).le (numberOf (fround choice 100)) = true) ∧
    0 ≤ value32 (froundBinary32 (mkRat (compH adc tf c).toInt 1024)) ∧
    value32 (froundBinary32 (mkRat (compH adc tf c).toInt 1024)) ≤ 100

/-- spec/45_decode_pressure.md R80 a: for given t_fine, P1, P2 and P3 either every sample gives COMPUTE_ERR or none does. -/
def Obligations.PressureGuardIgnoresSample : Prop :=
  ∀ (adc adc' tf : BitVec 32) (c c' : Coefs), c.digP1 = c'.digP1 → c.digP2 = c'.digP2 → c.digP3 = c'.digP3 →
    (compP adc tf c = none ↔ compP adc' tf c' = none)

/-- R80 b: the divisor is zero exactly when the wrapped product lies in 0 .. 2^33 - 1; P1 = 0 is the plain case. -/
def Obligations.PressureGuardZeroExactly : Prop :=
  ∀ (adc tf : BitVec 32) (c : Coefs),
    (compP adc tf c = none ↔
      0 ≤ (pressProduct tf c.digP1 c.digP2 c.digP3).toInt ∧
        (pressProduct tf c.digP1 c.digP2 c.digP3).toInt < 8589934592) ∧
    (c.digP1 = 0 → compP adc tf c = none)

/-- spec/44_decode_temperature_tfine.md R77: for the worked example's temperature coefficients and every 20-bit sample, no
step wraps, t_fine lies in the range given, and it does not decrease with the sample. -/
def Obligations.ExampleTemperatureRange : Prop :=
  ∀ a : Nat, a ≤ 1048575 →
    (compTFine (BitVec.ofNat 32 a) 27504 26435 (-1000)).toInt =
      (((a / 8 : Nat) : Int) - 55008) * 26435 / 2048 +
        (((a / 16 : Nat) : Int) - 27504) * (((a / 16 : Nat) : Int) - 27504) / 4096 * (-1000) / 16384 ∧
    -721301 ≤ (compTFine (BitVec.ofNat 32 a) 27504 26435 (-1000)).toInt ∧
    (compTFine (BitVec.ofNat 32 a) 27504 26435 (-1000)).toInt ≤ 960246 ∧
    ∀ b : Nat, a ≤ b → b ≤ 1048575 →
      (compTFine (BitVec.ofNat 32 a) 27504 26435 (-1000)).toInt ≤
        (compTFine (BitVec.ofNat 32 b) 27504 26435 (-1000)).toInt

/-! ## The output conversion

The four properties that spec/40_arithmetic.md R62 requires of any `fround`, for every choice of the parameter, and what the
default does beyond them. -/

/-- R62: the four decoders hand only rationals of the engine's range to `fround`, and each of those is 0 or between 1/1024
and 2^31/100 in magnitude. -/
def Obligations.EngineProducesOnlyItsRange : Prop :=
  (∀ raw : BitVec 16, engineProduces (mkRat (raw.toInt * 39) 10000)) ∧
  (∀ tf : BitVec 32, engineProduces (mkRat (compTInt tf).toInt 100)) ∧
  (∀ r : BitVec 32, engineProduces (mkRat r.toNat 256)) ∧
  (∀ (adc tf : BitVec 32) (c : Coefs), engineProduces (mkRat (compH adc tf c).toInt 1024)) ∧
  ∀ q : Rat, engineProduces q → q = 0 ∨ (mkRat 1 1024 ≤ |q| ∧ |q| ≤ mkRat 2147483648 100)

/-- R62, P1: under every choice `fround` of 0 stands for 0; the default's is the pattern of +0.0. -/
def Obligations.FroundOfZeroIsZero : Prop :=
  (∀ choice : FroundChoice, numberOf (fround choice 0) = .number 0) ∧
  fround .binary32 0 = .binary32 0x00000000#32

/-- R62, P2: under every choice `fround` is monotone on all rationals, those it converts to an infinity included. -/
def Obligations.FroundIsMonotone : Prop :=
  ∀ (choice : FroundChoice) (p q : Rat), p ≤ q →
    (numberOf (fround choice p)).le (numberOf (fround choice q)) = true

/-- R62, P3: under every choice `fround` of a number of the output format is that number. The default's format holds the
number of every finite pattern, and gives that pattern back but for negative zero, whose number is that of positive zero. -/
def Obligations.FroundIsExactOnItsValues : Prop :=
  (∀ (choice : FroundChoice) (p q : Rat), numberOf (fround choice p) = .number q →
    numberOf (fround choice q) = .number q) ∧
  ∀ p : BitVec 32, isFinite32 p = true →
    value32 (froundBinary32 (value32 p)) = value32 p ∧ (p ≠ 0x80000000#32 → froundBinary32 (value32 p) = p)

/-- R62, P4: under every choice `fround` of a rational the engine can produce is a number within |q| * 2^-24 of it; the
default does the same on the whole range of magnitudes that R62 states. -/
def Obligations.FroundErrorBound : Prop :=
  (∀ (choice : FroundChoice) (q : Rat), engineProduces q →
    ∃ v, numberOf (fround choice q) = .number v ∧ |v - q| ≤ |q| * mkRat 1 16777216) ∧
  ∀ q : Rat, q = 0 ∨ (mkRat 1 1024 ≤ |q| ∧ |q| ≤ mkRat 2147483648 100) →
    isFinite32 (froundBinary32 q) = true ∧ |value32 (froundBinary32 q) - q| ≤ |q| * mkRat 1 16777216

/-- R62: under the default HUM is always exact. -/
def Obligations.HumidityOutputIsExact : Prop :=
  ∀ (adc tf : BitVec 32) (c : Coefs),
    value32 (froundBinary32 (mkRat (compH adc tf c).toInt 1024)) = mkRat (compH adc tf c).toInt 1024
end

