-- ==== Sys2Proof/Laws/Arith.lean ====
section
/-! SUPPORT. What each integer operator of Machine/Arith.lean computes, on the integers its operands stand for
(spec/40_arithmetic.md R53 to R59): one lemma per operator, so that no later proof unfolds one. -/

namespace Sys2Proof.Machine

/-- `wrap_sN(z)` stands for the balanced residue of `z` modulo 2^N (R53). -/
theorem toInt_wrapS (n : Nat) (z : Int) : (wrapS n z).toInt = z.bmod (2 ^ n) := by
  simp [wrapS, BitVec.toInt_ofInt]

theorem toNat_wrapU (n z : Nat) : (wrapU n z).toNat = z % 2 ^ n := by
  simp [wrapU]

/-- An integer in the signed range is not changed by `wrap_sN` (R53). -/
theorem toInt_wrapS_of_range {n : Nat} (hn : 0 < n) {z : Int} (hlo : -(2 ^ (n - 1) : Int) ≤ z)
    (hhi : z < (2 ^ (n - 1) : Int)) : (wrapS n z).toInt = z := by
  rw [toInt_wrapS]
  have hp : (2 : Int) ^ n = 2 * 2 ^ (n - 1) := by
    rw [← pow_succ']
    congr 1
    omega
  apply Int.bmod_eq_of_le_mul_two
  · push_cast
    omega
  · push_cast
    omega

theorem toInt_addS {n : Nat} (a b : BitVec n) : (addS a b).toInt = (a.toInt + b.toInt).bmod (2 ^ n) :=
  toInt_wrapS n _

theorem toInt_subS {n : Nat} (a b : BitVec n) : (subS a b).toInt = (a.toInt - b.toInt).bmod (2 ^ n) :=
  toInt_wrapS n _

theorem toInt_mulS {n : Nat} (a b : BitVec n) : (mulS a b).toInt = (a.toInt * b.toInt).bmod (2 ^ n) :=
  toInt_wrapS n _

theorem toInt_shlS {n : Nat} (a : BitVec n) (k : Nat) :
    (shlS a k).toInt = (a.toInt * ((2 ^ k : Nat) : Int)).bmod (2 ^ n) :=
  toInt_wrapS n _

theorem toNat_shlU {n : Nat} (a : BitVec n) (k : Nat) : (shlU a k).toNat = a.toNat * 2 ^ k % 2 ^ n :=
  toNat_wrapU n _

/-- The arithmetic right shift is floor division and never wraps (R55). -/
theorem toInt_sra {n : Nat} (a : BitVec n) (k : Nat) : (sra a k).toInt = a.toInt / ((2 ^ k : Nat) : Int) := by
  rcases Nat.eq_zero_or_pos n with rfl | hn
  · have h : ∀ x : BitVec 0, x.toInt = 0 := fun x => by simp [BitVec.eq_nil x]
    simp [h]
  · have hk : (1 : Int) ≤ ((2 ^ k : Nat) : Int) := by exact_mod_cast Nat.one_le_two_pow
    have hlo := BitVec.le_toInt a
    have hhi := BitVec.toInt_lt (x := a)
    have hP : (0 : Int) < 2 ^ (n - 1) := by positivity
    refine toInt_wrapS_of_range hn ?_ ?_
    · rw [Int.le_ediv_iff_mul_le (by omega)]
      nlinarith
    · rw [Int.ediv_lt_iff_lt_mul (by omega)]
      nlinarith

theorem toNat_srl {n : Nat} (a : BitVec n) (k : Nat) : (srl a k).toNat = a.toNat / 2 ^ k := by
  rw [srl, toNat_wrapU, Nat.mod_eq_of_lt (lt_of_le_of_lt (Nat.div_le_self _ _) a.isLt)]

theorem toNat_zext {m n : Nat} (h : m ≤ n) (a : BitVec m) : (zext n a).toNat = a.toNat := by
  rw [zext, toNat_wrapU]
  exact Nat.mod_eq_of_lt (lt_of_lt_of_le a.isLt (Nat.pow_le_pow_right (by omega) h))

/-- Zero extension to a wider width keeps the integer, read as signed too (R56). -/
theorem toInt_zext {m n : Nat} (h : m < n) (a : BitVec m) : (zext n a).toInt = (a.toNat : Int) := by
  have hlt : a.toNat < 2 ^ (n - 1) :=
    lt_of_lt_of_le a.isLt (Nat.pow_le_pow_right (by omega) (by omega))
  have hp : (2 : Nat) ^ n = 2 * 2 ^ (n - 1) := by
    rw [← pow_succ']
    congr 1
    omega
  rw [BitVec.toInt_eq_toNat_of_lt, toNat_zext h.le]
  rw [toNat_zext h.le, hp]
  omega

theorem toInt_sext {m n : Nat} (h : m ≤ n) (hm : 0 < m) (a : BitVec m) : (sext n a).toInt = a.toInt := by
  have hlo := BitVec.le_toInt a
  have hhi := BitVec.toInt_lt (x := a)
  have hp : (2 : Int) ^ (m - 1) ≤ 2 ^ (n - 1) := pow_le_pow_right₀ (by norm_num) (by omega)
  exact toInt_wrapS_of_range (by omega) (by omega) (by omega)

theorem toNat_trunc {m : Nat} (n : Nat) (a : BitVec m) : (trunc n a).toNat = a.toNat % 2 ^ n :=
  toNat_wrapU n _

theorem toInt_divS {n : Nat} (a b : BitVec n) :
    (divS a b).toInt = (Int.tdiv a.toInt b.toInt).bmod (2 ^ n) :=
  toInt_wrapS n _

/-- A clamped value lies between its bounds, whatever it was before (R59). -/
theorem toInt_clampS_bounds {n : Nat} (a lo hi : BitVec n) (h : lo.toInt ≤ hi.toInt) :
    lo.toInt ≤ (clampS a lo hi).toInt ∧ (clampS a lo hi).toInt ≤ hi.toInt := by
  unfold clampS
  split
  · exact ⟨le_refl _, h⟩
  · split
    · exact ⟨h, le_refl _⟩
    · omega

end Sys2Proof.Machine
end

