-- ==== Sys2Proof/Laws/Fround.lean ====
section
/-! SUPPORT. The small lemmas of the output conversion (spec/40_arithmetic.md R62): what each choice of `fround` is, what its
results stand for, the order of P2, and the four properties under a choice other than the default. -/

namespace Sys2Proof

@[simp] theorem OutNumber.le_number (p q : Rat) : (OutNumber.number p).le (.number q) = decide (p ≤ q) := rfl

/-- The order of P2 is transitive. -/
theorem OutNumber.le_trans {a b c : OutNumber} (hab : a.le b = true) (hbc : b.le c = true) : a.le c = true := by
  cases a <;> cases b <;> cases c <;> simp_all [OutNumber.le]
  exact hab.trans hbc

end Sys2Proof

namespace Sys2Proof.Machine

@[simp] theorem fround_binary32 (q : Rat) : fround .binary32 q = .binary32 (froundBinary32 q) := rfl
@[simp] theorem fround_other (k : Nat) (q : Rat) :
    fround (.other k) q = .otherFormat ((Config.otherFround k).convert q) := rfl
@[simp] theorem numberOf_binary32 (p : BitVec 32) : numberOf (.binary32 p) = number32 p := rfl
@[simp] theorem numberOf_otherFormat (v : OutNumber) : numberOf (.otherFormat v) = v := rfl

/-- A finite pattern stands for its number. -/
theorem number32_of_finite {p : BitVec 32} (h : isFinite32 p = true) : number32 p = .number (value32 p) := by
  simp [number32, h]

/-- P1 under a choice other than the default. -/
theorem numberOf_fround_other_zero (k : Nat) : numberOf (fround (.other k) 0) = .number 0 :=
  (Config.otherFround k).zero

/-- P2 under a choice other than the default. -/
theorem numberOf_fround_other_mono (k : Nat) {p q : Rat} (h : p ≤ q) :
    (numberOf (fround (.other k) p)).le (numberOf (fround (.other k) q)) = true :=
  (Config.otherFround k).monotone p q h

/-- P3 under a choice other than the default. -/
theorem numberOf_fround_other_exact (k : Nat) {p q : Rat} (h : numberOf (fround (.other k) p) = .number q) :
    numberOf (fround (.other k) q) = .number q :=
  (Config.otherFround k).exact p q h

/-- P4 under a choice other than the default. -/
theorem numberOf_fround_other_bound (k : Nat) {q : Rat} (h : engineProduces q) :
    ∃ v, numberOf (fround (.other k) q) = .number v ∧ |v - q| ≤ |q| * mkRat 1 16777216 :=
  (Config.otherFround k).bound q h

end Sys2Proof.Machine
end

