-- ==== Sys2Proof/Laws/State.lean ====
section
/-! SUPPORT. What each register write and bus update of Machine/Ops.lean leaves in each field: one lemma per field per
update, true by rfl, so that no later proof unfolds a record update. -/

namespace Sys2Proof.Machine

@[simp] theorem State.setBus_acc (s : State) (t : Bus) : (s.setBus t).acc = s.acc := rfl
@[simp] theorem State.setBus_env (s : State) (t : Bus) : (s.setBus t).env = s.env := rfl
@[simp] theorem State.setBus_result (s : State) (t : Bus) : (s.setBus t).result = s.result := rfl
@[simp] theorem State.setBus_activity (s : State) (t : Bus) : (s.setBus t).activity = s.activity := rfl
@[simp] theorem State.setBus_cfg (s : State) (t : Bus) : (s.setBus t).cfg = s.cfg := rfl
@[simp] theorem State.setBus_bus (s : State) (t : Bus) : (s.setBus t).bus = t := rfl
@[simp] theorem State.setBus_host (s : State) (t : Bus) : (s.setBus t).host = s.host := rfl

@[simp] theorem State.commitCal_acc (s : State) (c : Coefs) (valid : Bool) : (s.commitCal c valid).acc = s.acc := rfl
@[simp] theorem State.commitCal_env_coefs (s : State) (c : Coefs) (valid : Bool) : (s.commitCal c valid).env.coefs = c := rfl
@[simp] theorem State.commitCal_env_calValid (s : State) (c : Coefs) (valid : Bool) : (s.commitCal c valid).env.calValid = valid := rfl
@[simp] theorem State.commitCal_env_tFine (s : State) (c : Coefs) (valid : Bool) : (s.commitCal c valid).env.tFine = s.env.tFine := rfl
@[simp] theorem State.commitCal_env_temp (s : State) (c : Coefs) (valid : Bool) : (s.commitCal c valid).env.temp = s.env.temp := rfl
@[simp] theorem State.commitCal_env_press (s : State) (c : Coefs) (valid : Bool) : (s.commitCal c valid).env.press = s.env.press := rfl
@[simp] theorem State.commitCal_env_hum (s : State) (c : Coefs) (valid : Bool) : (s.commitCal c valid).env.hum = s.env.hum := rfl
@[simp] theorem State.commitCal_result (s : State) (c : Coefs) (valid : Bool) : (s.commitCal c valid).result = s.result := rfl
@[simp] theorem State.commitCal_activity (s : State) (c : Coefs) (valid : Bool) : (s.commitCal c valid).activity = s.activity := rfl
@[simp] theorem State.commitCal_cfg (s : State) (c : Coefs) (valid : Bool) : (s.commitCal c valid).cfg = s.cfg := rfl
@[simp] theorem State.commitCal_bus (s : State) (c : Coefs) (valid : Bool) : (s.commitCal c valid).bus = s.bus := rfl
@[simp] theorem State.commitCal_host (s : State) (c : Coefs) (valid : Bool) : (s.commitCal c valid).host = s.host := rfl

@[simp] theorem State.setTFine_acc (s : State) (v : BitVec 32) : (s.setTFine v).acc = s.acc := rfl
@[simp] theorem State.setTFine_env_coefs (s : State) (v : BitVec 32) : (s.setTFine v).env.coefs = s.env.coefs := rfl
@[simp] theorem State.setTFine_env_calValid (s : State) (v : BitVec 32) : (s.setTFine v).env.calValid = s.env.calValid := rfl
@[simp] theorem State.setTFine_env_tFine (s : State) (v : BitVec 32) : (s.setTFine v).env.tFine = v := rfl
@[simp] theorem State.setTFine_env_temp (s : State) (v : BitVec 32) : (s.setTFine v).env.temp = s.env.temp := rfl
@[simp] theorem State.setTFine_env_press (s : State) (v : BitVec 32) : (s.setTFine v).env.press = s.env.press := rfl
@[simp] theorem State.setTFine_env_hum (s : State) (v : BitVec 32) : (s.setTFine v).env.hum = s.env.hum := rfl
@[simp] theorem State.setTFine_result (s : State) (v : BitVec 32) : (s.setTFine v).result = s.result := rfl
@[simp] theorem State.setTFine_activity (s : State) (v : BitVec 32) : (s.setTFine v).activity = s.activity := rfl
@[simp] theorem State.setTFine_cfg (s : State) (v : BitVec 32) : (s.setTFine v).cfg = s.cfg := rfl
@[simp] theorem State.setTFine_bus (s : State) (v : BitVec 32) : (s.setTFine v).bus = s.bus := rfl
@[simp] theorem State.setTFine_host (s : State) (v : BitVec 32) : (s.setTFine v).host = s.host := rfl

@[simp] theorem State.setTemp_acc (s : State) (v : OutValue) : (s.setTemp v).acc = s.acc := rfl
@[simp] theorem State.setTemp_env_coefs (s : State) (v : OutValue) : (s.setTemp v).env.coefs = s.env.coefs := rfl
@[simp] theorem State.setTemp_env_calValid (s : State) (v : OutValue) : (s.setTemp v).env.calValid = s.env.calValid := rfl
@[simp] theorem State.setTemp_env_tFine (s : State) (v : OutValue) : (s.setTemp v).env.tFine = s.env.tFine := rfl
@[simp] theorem State.setTemp_env_temp (s : State) (v : OutValue) : (s.setTemp v).env.temp = v := rfl
@[simp] theorem State.setTemp_env_press (s : State) (v : OutValue) : (s.setTemp v).env.press = s.env.press := rfl
@[simp] theorem State.setTemp_env_hum (s : State) (v : OutValue) : (s.setTemp v).env.hum = s.env.hum := rfl
@[simp] theorem State.setTemp_result (s : State) (v : OutValue) : (s.setTemp v).result = s.result := rfl
@[simp] theorem State.setTemp_activity (s : State) (v : OutValue) : (s.setTemp v).activity = s.activity := rfl
@[simp] theorem State.setTemp_cfg (s : State) (v : OutValue) : (s.setTemp v).cfg = s.cfg := rfl
@[simp] theorem State.setTemp_bus (s : State) (v : OutValue) : (s.setTemp v).bus = s.bus := rfl
@[simp] theorem State.setTemp_host (s : State) (v : OutValue) : (s.setTemp v).host = s.host := rfl

@[simp] theorem State.setPress_acc (s : State) (v : OutValue) : (s.setPress v).acc = s.acc := rfl
@[simp] theorem State.setPress_env_coefs (s : State) (v : OutValue) : (s.setPress v).env.coefs = s.env.coefs := rfl
@[simp] theorem State.setPress_env_calValid (s : State) (v : OutValue) : (s.setPress v).env.calValid = s.env.calValid := rfl
@[simp] theorem State.setPress_env_tFine (s : State) (v : OutValue) : (s.setPress v).env.tFine = s.env.tFine := rfl
@[simp] theorem State.setPress_env_temp (s : State) (v : OutValue) : (s.setPress v).env.temp = s.env.temp := rfl
@[simp] theorem State.setPress_env_press (s : State) (v : OutValue) : (s.setPress v).env.press = v := rfl
@[simp] theorem State.setPress_env_hum (s : State) (v : OutValue) : (s.setPress v).env.hum = s.env.hum := rfl
@[simp] theorem State.setPress_result (s : State) (v : OutValue) : (s.setPress v).result = s.result := rfl
@[simp] theorem State.setPress_activity (s : State) (v : OutValue) : (s.setPress v).activity = s.activity := rfl
@[simp] theorem State.setPress_cfg (s : State) (v : OutValue) : (s.setPress v).cfg = s.cfg := rfl
@[simp] theorem State.setPress_bus (s : State) (v : OutValue) : (s.setPress v).bus = s.bus := rfl
@[simp] theorem State.setPress_host (s : State) (v : OutValue) : (s.setPress v).host = s.host := rfl

@[simp] theorem State.setHum_acc (s : State) (v : OutValue) : (s.setHum v).acc = s.acc := rfl
@[simp] theorem State.setHum_env_coefs (s : State) (v : OutValue) : (s.setHum v).env.coefs = s.env.coefs := rfl
@[simp] theorem State.setHum_env_calValid (s : State) (v : OutValue) : (s.setHum v).env.calValid = s.env.calValid := rfl
@[simp] theorem State.setHum_env_tFine (s : State) (v : OutValue) : (s.setHum v).env.tFine = s.env.tFine := rfl
@[simp] theorem State.setHum_env_temp (s : State) (v : OutValue) : (s.setHum v).env.temp = s.env.temp := rfl
@[simp] theorem State.setHum_env_press (s : State) (v : OutValue) : (s.setHum v).env.press = s.env.press := rfl
@[simp] theorem State.setHum_env_hum (s : State) (v : OutValue) : (s.setHum v).env.hum = v := rfl
@[simp] theorem State.setHum_result (s : State) (v : OutValue) : (s.setHum v).result = s.result := rfl
@[simp] theorem State.setHum_activity (s : State) (v : OutValue) : (s.setHum v).activity = s.activity := rfl
@[simp] theorem State.setHum_cfg (s : State) (v : OutValue) : (s.setHum v).cfg = s.cfg := rfl
@[simp] theorem State.setHum_bus (s : State) (v : OutValue) : (s.setHum v).bus = s.bus := rfl
@[simp] theorem State.setHum_host (s : State) (v : OutValue) : (s.setHum v).host = s.host := rfl

@[simp] theorem State.setAcc_acc (s : State) (x y z : OutValue) : (s.setAcc x y z).acc = { x := x, y := y, z := z } := rfl
@[simp] theorem State.setAcc_env (s : State) (x y z : OutValue) : (s.setAcc x y z).env = s.env := rfl
@[simp] theorem State.setAcc_result (s : State) (x y z : OutValue) : (s.setAcc x y z).result = s.result := rfl
@[simp] theorem State.setAcc_activity (s : State) (x y z : OutValue) : (s.setAcc x y z).activity = s.activity := rfl
@[simp] theorem State.setAcc_cfg (s : State) (x y z : OutValue) : (s.setAcc x y z).cfg = s.cfg := rfl
@[simp] theorem State.setAcc_bus (s : State) (x y z : OutValue) : (s.setAcc x y z).bus = s.bus := rfl
@[simp] theorem State.setAcc_host (s : State) (x y z : OutValue) : (s.setAcc x y z).host = s.host := rfl

@[simp] theorem State.setResult_acc (s : State) (r : BitVec 16) : (s.setResult r).acc = s.acc := rfl
@[simp] theorem State.setResult_env (s : State) (r : BitVec 16) : (s.setResult r).env = s.env := rfl
@[simp] theorem State.setResult_result (s : State) (r : BitVec 16) : (s.setResult r).result = r := rfl
@[simp] theorem State.setResult_activity (s : State) (r : BitVec 16) : (s.setResult r).activity = s.activity := rfl
@[simp] theorem State.setResult_cfg (s : State) (r : BitVec 16) : (s.setResult r).cfg = s.cfg := rfl
@[simp] theorem State.setResult_bus (s : State) (r : BitVec 16) : (s.setResult r).bus = s.bus := rfl
@[simp] theorem State.setResult_host (s : State) (r : BitVec 16) : (s.setResult r).host = s.host := rfl

@[simp] theorem State.setActivity_acc (s : State) (a : Activity) : (s.setActivity a).acc = s.acc := rfl
@[simp] theorem State.setActivity_env (s : State) (a : Activity) : (s.setActivity a).env = s.env := rfl
@[simp] theorem State.setActivity_result (s : State) (a : Activity) : (s.setActivity a).result = s.result := rfl
@[simp] theorem State.setActivity_activity (s : State) (a : Activity) : (s.setActivity a).activity = a := rfl
@[simp] theorem State.setActivity_cfg (s : State) (a : Activity) : (s.setActivity a).cfg = s.cfg := rfl
@[simp] theorem State.setActivity_bus (s : State) (a : Activity) : (s.setActivity a).bus = s.bus := rfl
@[simp] theorem State.setActivity_host (s : State) (a : Activity) : (s.setActivity a).host = s.host := rfl

@[simp] theorem State.setPending_acc (s : State) (ms : List HostMove) : (s.setPending ms).acc = s.acc := rfl
@[simp] theorem State.setPending_env (s : State) (ms : List HostMove) : (s.setPending ms).env = s.env := rfl
@[simp] theorem State.setPending_result (s : State) (ms : List HostMove) : (s.setPending ms).result = s.result := rfl
@[simp] theorem State.setPending_activity (s : State) (ms : List HostMove) : (s.setPending ms).activity = s.activity := rfl
@[simp] theorem State.setPending_cfg (s : State) (ms : List HostMove) : (s.setPending ms).cfg = s.cfg := rfl
@[simp] theorem State.setPending_bus (s : State) (ms : List HostMove) : (s.setPending ms).bus = s.bus := rfl
@[simp] theorem State.setPending_host_pending (s : State) (ms : List HostMove) : (s.setPending ms).host.pending = ms := rfl
@[simp] theorem State.setPending_host_data (s : State) (ms : List HostMove) : (s.setPending ms).host.data = s.host.data := rfl

@[simp] theorem State.setData_acc (s : State) (v : HostValue) : (s.setData v).acc = s.acc := rfl
@[simp] theorem State.setData_env (s : State) (v : HostValue) : (s.setData v).env = s.env := rfl
@[simp] theorem State.setData_result (s : State) (v : HostValue) : (s.setData v).result = s.result := rfl
@[simp] theorem State.setData_activity (s : State) (v : HostValue) : (s.setData v).activity = s.activity := rfl
@[simp] theorem State.setData_cfg (s : State) (v : HostValue) : (s.setData v).cfg = s.cfg := rfl
@[simp] theorem State.setData_bus (s : State) (v : HostValue) : (s.setData v).bus = s.bus := rfl
@[simp] theorem State.setData_host_pending (s : State) (v : HostValue) : (s.setData v).host.pending = s.host.pending := rfl
@[simp] theorem State.setData_host_data (s : State) (v : HostValue) : (s.setData v).host.data = some v := rfl

@[simp] theorem afterRead_mem (t : Bus) (dev : DevAddr) (reg : RegOffset) (n : Nat) (b : List Byte) (st : Status) :
    (afterRead t dev reg n b st).mem = t.mem := rfl
@[simp] theorem afterRead_answers (t : Bus) (dev : DevAddr) (reg : RegOffset) (n : Nat) (b : List Byte) (st : Status) :
    (afterRead t dev reg n b st).answers = t.answers.tail := rfl
@[simp] theorem afterRead_draws (t : Bus) (dev : DevAddr) (reg : RegOffset) (n : Nat) (b : List Byte) (st : Status) :
    (afterRead t dev reg n b st).draws = t.draws + n + 1 := rfl
@[simp] theorem afterRead_history (t : Bus) (dev : DevAddr) (reg : RegOffset) (n : Nat) (b : List Byte) (st : Status) :
    (afterRead t dev reg n b st).history = t.history ++ [.rd dev reg n b st] := rfl

@[simp] theorem afterWrite_mem (t : Bus) (dev : DevAddr) (reg : RegOffset) (v : Byte) (st : Status) :
    (afterWrite t dev reg v st).mem = if st = .ok then memPut t.mem (sensorAddr dev reg) v else t.mem := rfl
@[simp] theorem afterWrite_answers (t : Bus) (dev : DevAddr) (reg : RegOffset) (v : Byte) (st : Status) :
    (afterWrite t dev reg v st).answers = t.answers.tail := rfl
@[simp] theorem afterWrite_draws (t : Bus) (dev : DevAddr) (reg : RegOffset) (v : Byte) (st : Status) :
    (afterWrite t dev reg v st).draws = t.draws + 1 := rfl
@[simp] theorem afterWrite_history (t : Bus) (dev : DevAddr) (reg : RegOffset) (v : Byte) (st : Status) :
    (afterWrite t dev reg v st).history = t.history ++ [.wr dev reg v st] := rfl

@[simp] theorem afterWait_mem (t : Bus) (ms : Nat) :
    (afterWait t ms).mem = t.mem := rfl
@[simp] theorem afterWait_answers (t : Bus) (ms : Nat) :
    (afterWait t ms).answers = t.answers := rfl
@[simp] theorem afterWait_draws (t : Bus) (ms : Nat) :
    (afterWait t ms).draws = t.draws := rfl
@[simp] theorem afterWait_history (t : Bus) (ms : Nat) :
    (afterWait t ms).history = t.history ++ [.wt ms] := rfl

@[simp] theorem beginCommand_state (s : State) : (beginCommand s).state = s.setActivity .busy := rfl
@[simp] theorem beginCommand_failed (s : State) : (beginCommand s).failed = 0 := rfl
@[simp] theorem Work.update_state (w : Work) (f : State → State) : (w.update f).state = f w.state := rfl
@[simp] theorem Work.update_failed (w : Work) (f : State → State) : (w.update f).failed = w.failed := rfl
@[simp] theorem waitMs_state (w : Work) (ms : Nat) : (waitMs w ms).state = w.state.setBus (afterWait w.state.bus ms) := rfl
@[simp] theorem waitMs_failed (w : Work) (ms : Nat) : (waitMs w ms).failed = w.failed := rfl

@[simp] theorem endCommand_acc (v : Verdict) (w : Work) : (endCommand v w).acc = w.state.acc := rfl
@[simp] theorem endCommand_env (v : Verdict) (w : Work) : (endCommand v w).env = w.state.env := rfl
@[simp] theorem endCommand_result (v : Verdict) (w : Work) : (endCommand v w).result = resultWord v w.failed := rfl
@[simp] theorem endCommand_activity (v : Verdict) (w : Work) : (endCommand v w).activity = .idle := rfl
@[simp] theorem endCommand_cfg (v : Verdict) (w : Work) : (endCommand v w).cfg = w.state.cfg := rfl
@[simp] theorem endCommand_bus (v : Verdict) (w : Work) : (endCommand v w).bus = w.state.bus := rfl
@[simp] theorem endCommand_host (v : Verdict) (w : Work) : (endCommand v w).host = w.state.host := rfl

end Sys2Proof.Machine
end

