-- ==== Sys2Proof/Laws/Ops.lean ====
section
/-! SUPPORT. What each shared operation of Machine/Ops.lean and each part of a step can do, said once: the transport's
primitives, sensor memory, the parts of a command one after another, and one step. -/

namespace Sys2Proof.Machine

/-! ## Sensor memory -/

/-- Below its first address a canonical memory lists nothing. -/
theorem memGet_below {m : Memory} {lo a : Nat} (h : Memory.wfFrom lo m = true) (ha : a < lo) :
    memGet m a = Config.unlistedByte := by
  induction m generalizing lo with
  | nil => rfl
  | cons c m ih =>
    obtain ⟨k, x⟩ := c
    simp only [Memory.wfFrom, Bool.and_eq_true, decide_eq_true_eq] at h
    rw [memGet, if_neg (by omega)]
    exact ih h.2 (by omega)

/-- A canonical form from a later address on is one from an earlier address on. -/
theorem Memory.wfFrom_lower {m : Memory} {lo lo' : Nat} (hle : lo' ≤ lo) (h : Memory.wfFrom lo m = true) :
    Memory.wfFrom lo' m = true := by
  cases m with
  | nil => rfl
  | cons c m =>
    simp only [Memory.wfFrom, Bool.and_eq_true, decide_eq_true_eq] at h ⊢
    exact ⟨⟨⟨by omega, h.1.1.2⟩, h.1.2⟩, h.2⟩

/-- A byte stored is the byte read back from the same address. -/
theorem memGet_memPut_same {m : Memory} {lo : Nat} (h : Memory.wfFrom lo m = true) (a : Nat) (v : Byte) :
    memGet (memPut m a v) a = v := by
  induction m generalizing lo with
  | nil =>
    by_cases hv : v = Config.unlistedByte <;> simp [memPut, memGet, hv]
  | cons c m ih =>
    obtain ⟨k, x⟩ := c
    simp only [Memory.wfFrom, Bool.and_eq_true, decide_eq_true_eq] at h
    by_cases h1 : a < k
    · by_cases hv : v = Config.unlistedByte
      · subst hv
        simp only [memPut, if_pos h1, if_true, memGet, if_neg (show ¬k = a by omega)]
        exact memGet_below h.2 (by omega)
      · simp [memPut, h1, hv, memGet]
    · by_cases h2 : a = k
      · subst h2
        by_cases hv : v = Config.unlistedByte
        · subst hv
          simp only [memPut, if_neg h1, if_true]
          exact memGet_below h.2 (by omega)
        · simp [memPut, hv, memGet]
      · simp only [memPut, if_neg h1, if_neg h2, memGet, if_neg (Ne.symm h2)]
        exact ih h.2

/-- A byte stored leaves every other address as it was. -/
theorem memGet_memPut_other (m : Memory) (a b : Nat) (v : Byte) (h : b ≠ a) :
    memGet (memPut m a v) b = memGet m b := by
  induction m with
  | nil =>
    by_cases hv : v = Config.unlistedByte
    · simp [memPut, hv]
    · simp [memPut, hv, memGet, h.symm]
  | cons c m ih =>
    obtain ⟨k, x⟩ := c
    by_cases h1 : a < k
    · by_cases hv : v = Config.unlistedByte
      · simp [memPut, h1, hv]
      · simp only [memPut, if_pos h1, if_neg hv]
        rw [memGet, if_neg h.symm]
    · by_cases h2 : a = k
      · subst h2
        by_cases hv : v = Config.unlistedByte
        · simp [memPut, hv, memGet, h.symm]
        · simp [memPut, hv, memGet, h.symm]
      · simp only [memPut, if_neg h1, if_neg h2, memGet, ih]

/-- Storing a byte keeps the canonical form from an address on. -/
theorem memPut_wfFrom (m : Memory) (lo a : Nat) (v : Byte) (hm : Memory.wfFrom lo m = true) (hlo : lo ≤ a)
    (ha : a < 32768) : Memory.wfFrom lo (memPut m a v) = true := by
  induction m generalizing lo with
  | nil => by_cases hv : v = Config.unlistedByte <;> simp [memPut, hv, Memory.wfFrom, hlo, ha]
  | cons c m ih =>
    obtain ⟨k, x⟩ := c
    have h := hm
    simp only [Memory.wfFrom, Bool.and_eq_true, decide_eq_true_eq] at h
    by_cases h1 : a < k
    · by_cases hv : v = Config.unlistedByte
      · simpa [memPut, h1, hv] using hm
      · simp only [memPut, if_pos h1, if_neg hv, Memory.wfFrom, Bool.and_eq_true, decide_eq_true_eq, bne_iff_ne, ne_eq]
        exact ⟨⟨⟨hlo, ha⟩, hv⟩, ⟨⟨by omega, h.1.1.2⟩, by simpa using h.1.2⟩, h.2⟩
    · by_cases h2 : a = k
      · by_cases hv : v = Config.unlistedByte
        · simp only [memPut, if_neg h1, if_pos h2, if_pos hv]
          exact Memory.wfFrom_lower (by omega) h.2
        · simp only [memPut, if_neg h1, if_pos h2, if_neg hv, Memory.wfFrom, Bool.and_eq_true, decide_eq_true_eq,
            bne_iff_ne, ne_eq]
          exact ⟨⟨⟨hlo, ha⟩, hv⟩, h2 ▸ h.2⟩
      · simp only [memPut, if_neg h1, if_neg h2, Memory.wfFrom, Bool.and_eq_true, decide_eq_true_eq]
        exact ⟨h.1, ih (k + 1) h.2 (by omega)⟩

/-- A location of the sensor bus is inside the 15-bit address space (R20, R29). -/
theorem sensorAddr_lt (dev : DevAddr) (reg : RegOffset) : sensorAddr dev reg < 32768 := by
  have h1 := dev.isLt
  have h2 := reg.isLt
  unfold sensorAddr
  omega

/-- Storing a byte at a location keeps the canonical form of sensor memory. -/
theorem memPut_wf (m : Memory) (dev : DevAddr) (reg : RegOffset) (v : Byte) (h : m.wf = true) :
    Memory.wf (memPut m (sensorAddr dev reg) v) = true :=
  memPut_wfFrom m 0 _ v h (Nat.zero_le _) (sensorAddr_lt dev reg)

/-! ## The transport's primitives -/

/-- A read returns exactly the bytes asked for (R24). -/
theorem readReply_length {t : Bus} {dev : DevAddr} {reg : RegOffset} {n : Nat} {b : List Byte} {st : Status}
    (h : readReply t dev reg n = some (b, st)) : b.length = n := by
  unfold readReply at h
  split at h <;> first | (simp only [Option.some.injEq, Prod.mk.injEq] at h; rw [← h.1]; simp [memBytes, fillBytes]) | cases h

/-- Every bus update keeps the canonical form of sensor memory. -/
theorem afterWrite_wf (t : Bus) (dev : DevAddr) (reg : RegOffset) (v : Byte) (st : Status) (h : t.mem.wf = true) :
    Memory.wf (afterWrite t dev reg v st).mem = true := by
  rw [afterWrite_mem]
  split
  · exact memPut_wf t.mem dev reg v h
  · exact h

/-- What `MemRead` can do: be stuck and change nothing, or answer and change the bus and the error counter. -/
theorem memRead_cases (w : Work) (dev : DevAddr) (reg : RegOffset) (n : Nat) :
    (readReply w.state.bus dev reg n = none ∧ memRead w dev reg n = .stuck w) ∨
    ∃ b st, readReply w.state.bus dev reg n = some (b, st) ∧
      memRead w dev reg n =
        .done (b, st) ⟨w.state.setBus (afterRead w.state.bus dev reg n b st), w.failed + fails st⟩ := by
  cases h : readReply w.state.bus dev reg n with
  | none => exact .inl ⟨rfl, by simp [memRead, h]⟩
  | some r => exact .inr ⟨r.1, r.2, rfl, by simp [memRead, h]⟩

/-- What `MemWrite` can do: be stuck and change nothing, or answer and change the bus and the error counter. -/
theorem memWrite_cases (w : Work) (dev : DevAddr) (reg : RegOffset) (v : Byte) :
    (writeReply w.state.bus = none ∧ memWrite w dev reg v = .stuck w) ∨
    ∃ st, writeReply w.state.bus = some st ∧
      memWrite w dev reg v =
        .done st ⟨w.state.setBus (afterWrite w.state.bus dev reg v st), w.failed + fails st⟩ := by
  cases h : writeReply w.state.bus with
  | none => exact .inl ⟨rfl, by simp [memWrite, h]⟩
  | some st => exact .inr ⟨st, rfl, by simp [memWrite, h]⟩

/-- With no silent answer scheduled, a read is answered (R41). -/
theorem readReply_isSome {t : Bus} (h : Answer.silent ∉ t.answers) (dev : DevAddr) (reg : RegOffset) (n : Nat) :
    ∃ b st, readReply t dev reg n = some (b, st) := by
  have hn : nextAnswer t ≠ .silent := by
    unfold nextAnswer
    split
    · next a rest e => intro hs; exact h (by rw [e, hs]; exact List.mem_cons_self)
    · split <;> simp
  unfold readReply
  split <;> first | exact ⟨_, _, rfl⟩ | contradiction

/-- With no silent answer scheduled, a write is answered (R41). -/
theorem writeReply_isSome {t : Bus} (h : Answer.silent ∉ t.answers) : ∃ st, writeReply t = some st := by
  have hn : nextAnswer t ≠ .silent := by
    unfold nextAnswer
    split
    · next a rest e => intro hs; exact h (by rw [e, hs]; exact List.mem_cons_self)
    · split <;> simp
  unfold writeReply
  split <;> first | exact ⟨_, rfl⟩ | contradiction

/-! ## Parts of a command -/

@[simp] theorem Run.andThen_done {α β : Type} (a : α) (w : Work) (k : α → Work → Run β) :
    (Run.done a w).andThen k = k a w := rfl

@[simp] theorem Run.andThen_stuck {α β : Type} (w : Work) (k : α → Work → Run β) :
    (Run.stuck w : Run α).andThen k = .stuck w := rfl

/-- A run of two parts ends done only if both parts do. -/
theorem Run.andThen_eq_done {α β : Type} {r : Run α} {k : α → Work → Run β} {b : β} {w : Work}
    (h : r.andThen k = .done b w) : ∃ a w', r = .done a w' ∧ k a w' = .done b w := by
  cases r with
  | done a w' => exact ⟨a, w', rfl, h⟩
  | stuck w' => cases h

/-- How a command's run ends: done with a verdict and back in IDLE, or stuck where it stood. -/
theorem runCommand_cases (body : Work → Run Verdict) (s : State) :
    (∃ v w, body (beginCommand s) = .done v w ∧ runCommand body s = endCommand v w) ∨
    ∃ w, body (beginCommand s) = .stuck w ∧ runCommand body s = w.state := by
  cases h : body (beginCommand s) with
  | done v w => exact .inl ⟨v, w, rfl, by simp [runCommand, h]⟩
  | stuck w => exact .inr ⟨w, rfl, by simp [runCommand, h]⟩

/-- What one step of the machine can do. -/
theorem step_cases {s t : State} (h : step s = .next t) :
    s.cfg.wf = true ∧ s.activity = .idle ∧
      ((s.host.pending = [] ∧ t = s) ∨
       (∃ v ms i, s.host.pending = .write 0x00 v :: ms ∧ decode v = .command i ∧ exec i (s.setPending ms) = .next t) ∨
       (∃ v ms, s.host.pending = .write 0x00 v :: ms ∧ decode v = .illegal v ∧ t = illegalCommand (s.setPending ms)) ∨
       (∃ reg ms v, s.host.pending = .read reg :: ms ∧ hostRead reg (s.setPending ms) = some v ∧
          t = (s.setPending ms).setData v) ∨
       (∃ ms, s.host.pending = .reset :: ms ∧ t = resetEvent (s.setPending ms))) := by
  unfold step at h
  split at h
  next hwf =>
    refine ⟨hwf, ?_⟩
    unfold turn at h
    split at h
    · cases h
    next ha =>
      refine ⟨ha, ?_⟩
      split at h
      next hp => cases h; exact .inl ⟨hp, rfl⟩
      next m ms hp =>
        right
        cases m with
        | write reg v =>
          simp only [hostMove] at h
          split at h
          next hr =>
            subst hr
            unfold issue at h
            split at h
            next i hd => exact .inl ⟨v, ms, i, hp, hd, h⟩
            next w hd =>
              have hw : w = v := by
                unfold decode at hd
                dsimp only at hd
                generalize (if wordUnit v = 0x1#4 then decodeAccOp (wordOp v)
                  else if wordUnit v = 0x2#4 then decodeEnvOp (wordOp v) else none) = found at hd
                cases found <;> cases hd
                rfl
              subst hw
              cases h
              exact .inr (.inl ⟨w, ms, hp, hd, rfl⟩)
          next => cases h
        | read reg =>
          simp only [hostMove] at h
          split at h
          next v hv => cases h; exact .inr (.inr (.inl ⟨reg, ms, v, hp, hv, rfl⟩))
          next => cases h
        | reset => cases h; exact .inr (.inr (.inr ⟨ms, hp, rfl⟩))
  next => cases h

end Sys2Proof.Machine
end

