-- ==== Sys2Proof/Laws/PerInstr.lean ====
section
/-! SUPPORT. Statements per instruction, one lemma per constructor of Instr: the family WordShape says that a command
is well formed and that its word carries its handle's unit number in bits 7:4 and a known operation number in bits
3:0 (spec/30_encoding.md R42, R43). -/

namespace Sys2Proof.Laws.WordShape

/-- The command's word has the format U4.O4 of R42 with the values of R43. -/
def Statement (i : Instr) : Prop :=
  i.wf = true ∧ wordUnit (encode i) = unitOf i.handle ∧ wordOp (encode i) = opOf i ∧ (opOf i).toNat < 5

theorem initAcc : Statement .initAcc := by unfold Statement; decide
theorem readAcc : Statement .readAcc := by unfold Statement; decide
theorem initEnv : Statement .initEnv := by unfold Statement; decide
theorem loadCal : Statement .loadCal := by unfold Statement; decide
theorem readTemp : Statement .readTemp := by unfold Statement; decide
theorem readPress : Statement .readPress := by unfold Statement; decide
theorem readHum : Statement .readHum := by unfold Statement; decide

end Sys2Proof.Laws.WordShape
end

