-- ==== Sys2Proof/Laws/Trace.lean ====
section
/-! SUPPORT. The events a part of a command issues: how `answeredBy`, `busAfter` and `failedOps` go together, and for each
shared operation the one lemma that says which events it adds and what it leaves unchanged. -/

namespace Sys2Proof.Machine

theorem busAfter_append (t : Bus) (e1 e2 : List Event) :
    busAfter t (e1 ++ e2) = busAfter (busAfter t e1) e2 := by
  induction e1 generalizing t with
  | nil => rfl
  | cons e es ih => cases e <;> exact ih _

theorem answeredBy_append (t : Bus) (e1 e2 : List Event) :
    answeredBy t (e1 ++ e2) ↔ answeredBy t e1 ∧ answeredBy (busAfter t e1) e2 := by
  induction e1 generalizing t with
  | nil => simp [answeredBy, busAfter]
  | cons e es ih => cases e <;> simp [answeredBy, busAfter, ih, and_assoc]

/-- The history grows by exactly the events (R38). -/
theorem busAfter_history (t : Bus) (evs : List Event) : (busAfter t evs).history = t.history ++ evs := by
  induction evs generalizing t with
  | nil => simp [busAfter]
  | cons e es ih => cases e <;> simp [busAfter, ih]

/-- Events keep the canonical form of sensor memory. -/
theorem busAfter_wf (t : Bus) (evs : List Event) (h : t.mem.wf = true) : (busAfter t evs).mem.wf = true := by
  induction evs generalizing t with
  | nil => exact h
  | cons e es ih =>
    cases e with
    | rd dev reg n b st => exact ih _ h
    | wr dev reg v st => exact ih _ (afterWrite_wf t dev reg v st h)
    | wt ms => exact ih _ h

/-- Events without a write leave sensor memory as it was. -/
theorem busAfter_mem_of_no_write (t : Bus) (evs : List Event) (h : ∀ e ∈ evs, isWrite e = false) :
    (busAfter t evs).mem = t.mem := by
  induction evs generalizing t with
  | nil => rfl
  | cons e es ih =>
    have hes := fun e' he' => h e' (List.mem_cons_of_mem _ he')
    cases e with
    | rd dev reg n b st => exact ih _ hes
    | wr dev reg v st => simpa [isWrite] using h _ List.mem_cons_self
    | wt ms => exact ih _ hes

/-- An address that no event writes reads as before. -/
theorem busAfter_memGet (t : Bus) (evs : List Event) (a : Nat)
    (h : ∀ dev reg v st, Event.wr dev reg v st ∈ evs → sensorAddr dev reg ≠ a) :
    memGet (busAfter t evs).mem a = memGet t.mem a := by
  induction evs generalizing t with
  | nil => rfl
  | cons e es ih =>
    have hes := fun dev reg v st he => h dev reg v st (List.mem_cons_of_mem _ he)
    cases e with
    | rd dev reg n b st => exact ih _ hes
    | wr dev reg v st =>
      refine (ih _ hes).trans ?_
      rw [afterWrite_mem]
      split
      · exact memGet_memPut_other _ _ _ _ (Ne.symm (h dev reg v st List.mem_cons_self))
      · rfl
    | wt ms => exact ih _ hes

/-- Events use up answers from the front of the schedule. -/
theorem busAfter_responsive (t : Bus) (evs : List Event) (h : Answer.silent ∉ t.answers) :
    Answer.silent ∉ (busAfter t evs).answers := by
  have tail : ∀ l : List Answer, Answer.silent ∉ l → Answer.silent ∉ l.tail :=
    fun l hl hm => hl (List.mem_of_mem_tail hm)
  induction evs generalizing t with
  | nil => exact h
  | cons e es ih =>
    cases e with
    | rd dev reg n b st => exact ih _ (tail _ h)
    | wr dev reg v st => exact ih _ (tail _ h)
    | wt ms => exact ih _ h

theorem failedOps_append (e1 e2 : List Event) : failedOps (e1 ++ e2) = failedOps e1 + failedOps e2 :=
  List.countP_append

theorem failedOps_le_length (evs : List Event) : failedOps evs ≤ evs.length := List.countP_le_length

/-- What a part of a command does besides its own register writes: it issues the events `evs`, which are the transport's
answers, counts their failures, and leaves `RESULT`, the activity state, the parameters and the host's port as they
were. -/
structure Trace (w w' : Work) (evs : List Event) : Prop where
  answered : answeredBy w.state.bus evs
  bus : w'.state.bus = busAfter w.state.bus evs
  failed : w'.failed = w.failed + failedOps evs
  result : w'.state.result = w.state.result
  activity : w'.state.activity = w.state.activity
  cfg : w'.state.cfg = w.state.cfg
  host : w'.state.host = w.state.host

theorem Trace.refl (w : Work) : Trace w w [] := ⟨trivial, rfl, rfl, rfl, rfl, rfl, rfl⟩

theorem Trace.trans {w w1 w2 : Work} {e1 e2 : List Event} (h1 : Trace w w1 e1) (h2 : Trace w1 w2 e2) :
    Trace w w2 (e1 ++ e2) where
  answered := (answeredBy_append _ _ _).2 ⟨h1.answered, h1.bus ▸ h2.answered⟩
  bus := by rw [h2.bus, h1.bus, busAfter_append]
  failed := by rw [h2.failed, h1.failed, failedOps_append, Nat.add_assoc]
  result := h2.result.trans h1.result
  activity := h2.activity.trans h1.activity
  cfg := h2.cfg.trans h1.cfg
  host := h2.host.trans h1.host

/-- `MemRead` adds one `Rd` event and touches neither handle; or it is stuck where it stood. -/
theorem memRead_trace (w : Work) (dev : DevAddr) (reg : RegOffset) (n : Nat) :
    memRead w dev reg n = .stuck w ∨
    ∃ b st w', memRead w dev reg n = .done (b, st) w' ∧ Trace w w' [.rd dev reg n b st] ∧ b.length = n ∧
      w'.state.acc = w.state.acc ∧ w'.state.env = w.state.env := by
  rcases memRead_cases w dev reg n with ⟨-, h⟩ | ⟨b, st, hr, h⟩
  · exact .inl h
  · refine .inr ⟨b, st, _, h, ⟨⟨hr, trivial⟩, rfl, ?_, rfl, rfl, rfl, rfl⟩, readReply_length hr, rfl, rfl⟩
    cases st <;> simp [failedOps, isFailed, fails]

/-- `MemWrite` adds one `Wr` event and touches neither handle; or it is stuck where it stood. -/
theorem memWrite_trace (w : Work) (dev : DevAddr) (reg : RegOffset) (v : Byte) :
    memWrite w dev reg v = .stuck w ∨
    ∃ st w', memWrite w dev reg v = .done st w' ∧ Trace w w' [.wr dev reg v st] ∧
      w'.state.acc = w.state.acc ∧ w'.state.env = w.state.env := by
  rcases memWrite_cases w dev reg v with ⟨-, h⟩ | ⟨st, hr, h⟩
  · exact .inl h
  · refine .inr ⟨st, _, h, ⟨⟨hr, trivial⟩, rfl, ?_, rfl, rfl, rfl, rfl⟩, rfl, rfl⟩
    cases st <;> simp [failedOps, isFailed, fails]

/-- `Wait` adds one `Wt` event. -/
theorem waitMs_trace (w : Work) (ms : Nat) : Trace w (waitMs w ms) [.wt ms] :=
  ⟨trivial, rfl, by simp [failedOps, isFailed], rfl, rfl, rfl, rfl⟩

/-- With a responsive transport `MemRead` is not stuck. -/
theorem memRead_ne_stuck {w w' : Work} (h : Answer.silent ∉ w.state.bus.answers) (dev : DevAddr) (reg : RegOffset)
    (n : Nat) : memRead w dev reg n ≠ .stuck w' := by
  obtain ⟨b, st, hr⟩ := readReply_isSome h dev reg n
  simp [memRead, hr]

/-- With a responsive transport `MemWrite` is not stuck. -/
theorem memWrite_ne_stuck {w w' : Work} (h : Answer.silent ∉ w.state.bus.answers) (dev : DevAddr) (reg : RegOffset)
    (v : Byte) : memWrite w dev reg v ≠ .stuck w' := by
  obtain ⟨st, hr⟩ := writeReply_isSome h
  simp [memWrite, hr]

/-- A list of writes adds one `Wr` event each, in list order, unless one is stuck, and touches neither handle. -/
theorem memWriteAll_trace (dev : DevAddr) (l : List (RegOffset × Byte)) (w : Work) :
    (∃ sts w', memWriteAll dev l w = .done () w' ∧ sts.length = l.length ∧
      Trace w w' (List.zipWith (fun rv st => Event.wr dev rv.1 rv.2 st) l sts) ∧
      w'.state.acc = w.state.acc ∧ w'.state.env = w.state.env) ∨
    (∃ sts w', memWriteAll dev l w = .stuck w' ∧ sts.length < l.length ∧
      Trace w w' (List.zipWith (fun rv st => Event.wr dev rv.1 rv.2 st) l sts) ∧
      w'.state.acc = w.state.acc ∧ w'.state.env = w.state.env ∧ Answer.silent ∈ w.state.bus.answers) := by
  induction l generalizing w with
  | nil => exact .inl ⟨[], w, rfl, rfl, Trace.refl w, rfl, rfl⟩
  | cons rv rest ih =>
    obtain ⟨reg, v⟩ := rv
    rcases memWrite_trace w dev reg v with h | ⟨st, w1, h, ht, ha, he⟩
    · refine .inr ⟨[], w, by simp [memWriteAll, h], by simp, by simpa using Trace.refl w, rfl, rfl, ?_⟩
      by_contra hs
      exact memWrite_ne_stuck hs dev reg v h
    · rcases ih w1 with ⟨sts, w2, h2, hl, ht2, ha2, he2⟩ | ⟨sts, w2, h2, hl, ht2, ha2, he2, hs⟩
      · exact .inl ⟨st :: sts, w2, by simp [memWriteAll, h, h2], by simp [hl], ht.trans ht2, ha2.trans ha, he2.trans he⟩
      · refine .inr ⟨st :: sts, w2, by simp [memWriteAll, h, h2], by simpa using hl, ht.trans ht2, ha2.trans ha,
          he2.trans he, ?_⟩
        by_contra hn
        exact busAfter_responsive w.state.bus _ hn (ht.bus ▸ hs)

/-- The identity check adds one one-byte read and compares its byte, whatever the status (R63 a); or it is stuck where it
stood. -/
theorem identityCheck_trace (w : Work) (dev : DevAddr) (reg : RegOffset) (expected : Byte) :
    identityCheck w dev reg expected = .stuck w ∨
    ∃ b st w', identityCheck w dev reg expected = .done (decide (byteAt b 0 = expected)) w' ∧
      Trace w w' [.rd dev reg 1 b st] ∧ b.length = 1 ∧ w'.state.acc = w.state.acc ∧ w'.state.env = w.state.env := by
  rcases memRead_trace w dev reg 1 with h | ⟨b, st, w', h, ht, hl, ha, he⟩
  · exact .inl (by simp [identityCheck, h])
  · exact .inr ⟨b, st, w', by simp [identityCheck, h], ht, hl, ha, he⟩

/-- Committing coefficients issues no event. -/
theorem commitCal_trace {w w' : Work} {evs : List Event} (h : Trace w w' evs) (c : Coefs) (valid : Bool) :
    Trace w (w'.update fun s => s.commitCal c valid) evs :=
  ⟨h.answered, h.bus, h.failed, h.result, h.activity, h.cfg, h.host⟩

/-- What the loader can do (R70): be stuck with the ENV handle as it was; fail on its first or its second read with a zero
set committed; or commit the set reassembled from two good reads. -/
theorem calLoad_trace (w : Work) :
    (∃ w' evs, calLoad w = .stuck w' ∧ Trace w w' evs ∧ evs.length ≤ 1 ∧ w'.state.acc = w.state.acc ∧
      w'.state.env = w.state.env) ∨
    (∃ bt w', calLoad w = .done false (w'.update fun s => s.commitCal Coefs.zero false) ∧
      Trace w w' [.rd w.state.cfg.envAddr w.state.cfg.calTpBase 24 bt .fail] ∧ bt.length = 24 ∧
      w'.state.acc = w.state.acc ∧ w'.state.env = w.state.env) ∨
    (∃ bt bh st w',
      calLoad w =
        (match st with
          | .fail => .done false (w'.update fun s => s.commitCal Coefs.zero false)
          | .ok =>
            .done true
              (w'.update fun s => s.commitCal (reassemble w.state.cfg.hLayout w.state.cfg.h45SignExtend bt bh) true)) ∧
      Trace w w'
        [.rd w.state.cfg.envAddr w.state.cfg.calTpBase 24 bt .ok, .rd w.state.cfg.envAddr w.state.cfg.calHBase 9 bh st] ∧
      bt.length = 24 ∧ bh.length = 9 ∧ w'.state.acc = w.state.acc ∧ w'.state.env = w.state.env) := by
  rcases memRead_trace w w.state.cfg.envAddr w.state.cfg.calTpBase 24 with h | ⟨bt, st, w1, h, ht, hl, ha, he⟩
  · exact .inl ⟨w, [], by simp [calLoad, Config.calTpLen, h], Trace.refl w, by simp, rfl, rfl⟩
  · cases st with
    | fail => exact .inr (.inl ⟨bt, w1, by simp [calLoad, Config.calTpLen, h, calLoadFailed], ht, hl, ha, he⟩)
    | ok =>
      rcases memRead_trace w1 w.state.cfg.envAddr w.state.cfg.calHBase 9 with h2 | ⟨bh, st2, w2, h2, ht2, hl2, ha2, he2⟩
      · exact .inl ⟨w1, _, by simp [calLoad, Config.calTpLen, Config.calHLen, h, ht.cfg, h2], ht, by simp, ha, he⟩
      · refine .inr (.inr ⟨bt, bh, st2, w2, ?_, ht.trans ht2, hl, hl2, ha2.trans ha, he2.trans he⟩)
        cases st2 <;>
          simp [calLoad, Config.calTpLen, Config.calHLen, h, ht.cfg, h2, calLoadFailed, calLoadCommit, ht2.cfg, Work.update]

end Sys2Proof.Machine
end

