-- ==== Sys2Proof/Tests/Slice0.lean ====
section
/-! SUPPORT. Tests of the model, each with its expected result from the spec (spec/95_test_vectors.md, or the rule named),
and for every obligation with hypotheses a witness: a concrete state and operands that meet all of them together. -/

namespace Sys2Proof.Tests

open Sys2Proof.Machine

/-! ## Helpers: image M1 of spec/95_test_vectors.md, a start state, and a look at the state a command ends in -/

/-- Consecutive bytes of sensor memory from an address on, without those that read as unlisted ones do. -/
def cellsAt (base : Nat) (bs : List Byte) : Memory :=
  (bs.zipIdx.map fun p => (base + p.2, p.1)).filter fun c => c.2 != Config.unlistedByte

/-- The temperature and pressure block of M1. -/
def blockTP : List Byte :=
  [0x70, 0x6B, 0x43, 0x67, 0x18, 0xFC, 0x7D, 0x8E, 0x43, 0xD6, 0xD0, 0x0B, 0x27, 0x0B, 0x8C, 0x00, 0xF9, 0xFF, 0x8C, 0x3C,
    0xF8, 0xC6, 0x70, 0x17]

/-- The humidity block of M1. -/
def blockH : List Byte := [0x6F, 0x01, 0x00, 0x13, 0x28, 0x03, 0x1E, 0x4B, 0xAA]

/-- Image M1: device 0x53 from 0x5300 on, device 0x76 from 0x7600 on. -/
def imageM1 : Memory :=
  cellsAt 0x5300 [0xE5] ++ cellsAt 0x5332 [0x00, 0x01, 0xFF, 0xFF, 0x00, 0x80] ++ cellsAt 0x7688 blockTP ++
    cellsAt 0x76D0 [0x60] ++ cellsAt 0x76E1 blockH ++ cellsAt 0x76F7 [0x65, 0x5A, 0xC0, 0x7E, 0xED, 0x00, 0x80, 0x00]

/-- The coefficients of M1: set K. -/
def setK : Coefs := reassemble HLayout.default false blockTP blockH

/-- The reset state over M1 with these answers to come, coefficients and `t_fine`. -/
def start (answers : List Answer) (c : Coefs) (t : BitVec 32) : State :=
  { State.reset with
    env := { State.reset.env with coefs := c, tFine := t }
    bus := { mem := imageM1, answers := answers, draws := 0, history := [] } }

/-- A transport that answers every operation from sensor memory. -/
def quiet : List Answer := List.replicate 8 Answer.memory

/-- The start state with a host's moves to come. -/
def hosted (ms : List HostMove) : State := (start quiet setK 128422).setPending ms

/-- The outcome is a next state with this property. -/
def after (o : Host.Outcome State Fault Refusal) (p : State → Bool) : Bool :=
  match o with
  | .next t => p t
  | .fault _ => false
  | .refused _ => false

/-! ## Well-formedness: the default parameters pass, each constraint of R7 refuses its violation -/

theorem test_wf_default : Params.default.wf = true := by decide
theorem test_wf_same_addresses : (Params.wf { Params.default with accAddr := 0x76 }) = false := by decide
theorem test_wf_cal_tp_base : (Params.wf { Params.default with calTpBase := 0xE8 }) = true ∧
    (Params.wf { Params.default with calTpBase := 0xE9 }) = false := by decide
theorem test_wf_cal_h_base : (Params.wf { Params.default with calHBase := 0xF7 }) = true ∧
    (Params.wf { Params.default with calHBase := 0xF8 }) = false := by decide
theorem test_wf_press : (Params.wf { Params.default with envRegPress := 0xFD }) = true ∧
    (Params.wf { Params.default with envRegPress := 0xFE }) = false := by decide
theorem test_wf_temp : (Params.wf { Params.default with envRegTemp := 0xFD }) = true ∧
    (Params.wf { Params.default with envRegTemp := 0xFE }) = false := by decide
theorem test_wf_hum : (Params.wf { Params.default with envRegHum := 0xFE }) = true ∧
    (Params.wf { Params.default with envRegHum := 0xFF }) = false := by decide
theorem test_wf_acc_data : (Params.wf { Params.default with accRegData := 0xFA }) = true ∧
    (Params.wf { Params.default with accRegData := 0xFB }) = false := by decide
theorem test_wf_layout : (Params.wf { Params.default with hLayout := { HLayout.default with h1 := 8 } }) = true ∧
    (Params.wf { Params.default with hLayout := { HLayout.default with h1 := 4 } }) = false := by decide
theorem test_wf_no_mode_writes : (Params.wf { Params.default with envModeWrites := [] }) = false := by decide
theorem test_wf_mode_writes : (Params.wf { Params.default with envModeWrites := List.replicate 16 (0, 0) }) = true ∧
    (Params.wf { Params.default with envModeWrites := List.replicate 17 (0, 0) }) = false := by decide
theorem test_wf_commands : allInstrs.all Instr.wf = true := by decide

/-! ## Command words, bit by bit from R42 and R43, and scripts (R50, R51) -/

theorem test_decode_init_acc : decode 0b0001_0000#8 = .command .initAcc := by decide
theorem test_decode_read_acc : decode 0b0001_0001#8 = .command .readAcc := by decide
theorem test_decode_init_env : decode 0b0010_0000#8 = .command .initEnv := by decide
theorem test_decode_load_cal : decode 0b0010_0001#8 = .command .loadCal := by decide
theorem test_decode_read_temp : decode 0b0010_0010#8 = .command .readTemp := by decide
theorem test_decode_read_press : decode 0b0010_0011#8 = .command .readPress := by decide
theorem test_decode_read_hum : decode 0b0010_0100#8 = .command .readHum := by decide

/-- X2 and X3. -/
theorem test_decode_illegal : ([0x00, 0x12, 0x1F, 0x25, 0x2F, 0x30, 0x55, 0xFF] : List Byte).all
    (fun w => decode w == .illegal w) = true := by decide

theorem test_encode : allInstrs.map encode = [0x10, 0x11, 0x20, 0x21, 0x22, 0x23, 0x24] := by decide

theorem test_table_word : decodeTableWord 8 0x24 = some .readHum ∧ decodeTableWord 8 0x25 = none := by decide

/-- The script of program P1. -/
theorem test_assemble : assemble ["INIT_ENV      ; 0x20".toList, [], "SAMPLE_ENV".toList] =
    some [0x20, 0x22, 0x23, 0x24] := by decide

/-! ## Operators: the corners of R61 -/

theorem test_operator_corners :
    (addS 2147483647#32 1#32).toInt = -2147483648 ∧ (subS (-2147483648#32) 1#32).toInt = 2147483647 ∧
    (mulS 65535#32 65535#32).toInt = -131071 ∧ (mulS (-1#32) (-1#32)).toInt = 1 ∧
    (mulS (-2147483648#32) (-1#32)).toInt = -2147483648 ∧ (shlS 1#32 31).toInt = -2147483648 ∧
    (shlS (-1#32) 4).toInt = -16 ∧ (shlS 3#32 31).toInt = -2147483648 ∧ (sra (-1#32) 31).toInt = -1 ∧
    (sra (-7#32) 1).toInt = -4 ∧ (sra 7#32 1).toInt = 3 ∧ srl 0xF0#8 4 = 0x0F#8 := by decide

theorem test_width_corners :
    (0xFFFF#16).toInt = -1 ∧ (0x8000#16).toInt = -32768 ∧ (0x80#8).toInt = -128 ∧ (sext 32 0x8000#16).toInt = -32768 ∧
    (zext 32 0xFFFF#16).toInt = 65535 ∧ (trunc 32 (-1#64)).toNat = 4294967295 := by decide

theorem test_division_corners :
    (divS (-7#64) 2#64).toInt = -3 ∧ (divS (-9223372036854775808#64) (-1#64)).toInt = -9223372036854775808 ∧
    (divS 4250863350579200000#64 (-102398438#64)).toInt = -41512970642 := by decide

theorem test_clamp_corners :
    clampS (-5#32) 0#32 419430400#32 = 0#32 ∧ clampS 419430401#32 0#32 419430400#32 = 419430400#32 := by decide

/-! ## The default output conversion: A2, A3, A4, T2, V-P1, V-P3 -/

theorem test_fround :
    froundBinary32 0 = 0x00000000#32 ∧ froundBinary32 (mkRat 39 10000) = 0x3B7F9724#32 ∧
    froundBinary32 (mkRat (-39) 10000) = 0xBB7F9724#32 ∧ froundBinary32 (mkRat 1277913 10000) = 0x42FF9525#32 ∧
    froundBinary32 (mkRat (-14088) 100) = 0xC30CE148#32 := by decide

/-- V-P1: the 25-bit integer ends in ...01, rounded down; V-P3: 16770585.125 is rounded down. -/
theorem test_fround_rounds :
    froundBinary32 (mkRat 25767233 256) = 0x47C496A0#32 ∧ froundBinary32 (mkRat 4293269792 256) = 0x4B7FE619#32 := by
  decide

/-- What patterns stand for, by IEEE 754: one, the infinities, a NaN. -/
theorem test_number32 :
    number32 0x3F800000#32 = .number 1 ∧ number32 0x7F800000#32 = .plusInfinity ∧
    number32 0xFF800000#32 = .minusInfinity ∧ number32 0x7FC00000#32 = .notANumber := by decide

/-! ## Samples, blocks and formulas -/

/-- SA2, SA4, SA6, SA13. -/
theorem test_samples :
    adc20 [0x7E, 0xED, 0x0F] = 519888#32 ∧ adc20 [0xFF, 0xFF, 0xFF] = 1048575#32 ∧ adcH [0x80, 0x00] = 32768#32 ∧
    (accRaw [0x00, 0x01, 0xFF, 0xFF, 0x00, 0x80] 0).toInt = 256 ∧
    (accRaw [0x00, 0x01, 0xFF, 0xFF, 0x00, 0x80] 1).toInt = -1 ∧
    (accRaw [0x00, 0x01, 0xFF, 0xFF, 0x00, 0x80] 2).toInt = -32768 := by decide

/-- Set K as section 0 tabulates it. -/
theorem test_set_k :
    (setK.digT1.toNat, setK.digT2.toInt, setK.digT3.toInt) = (27504, 26435, -1000) ∧
    (setK.digP1.toNat, setK.digP2.toInt, setK.digP3.toInt) = (36477, -10685, 3024) ∧
    (setK.digP4.toInt, setK.digP5.toInt, setK.digP6.toInt) = (2855, 140, -7) ∧
    (setK.digP7.toInt, setK.digP8.toInt, setK.digP9.toInt) = (15500, -14600, 6000) ∧
    (setK.digH1.toNat, setK.digH2.toInt, setK.digH3.toNat) = (75, 367, 0) ∧
    (setK.digH4.toInt, setK.digH5.toInt, setK.digH6.toInt) = (312, 50, 30) := by decide

/-- CL7 and CL8. -/
theorem test_ext12 :
    (reassemble HLayout.default false blockTP [0x6F, 1, 0, 0x80, 0xF1, 0xFF, 0x1E, 0x4B, 0]).digH4.toInt = 2049 ∧
    (reassemble HLayout.default false blockTP [0x6F, 1, 0, 0x80, 0xF1, 0xFF, 0x1E, 0x4B, 0]).digH5.toInt = 4095 ∧
    (reassemble HLayout.default true blockTP [0x6F, 1, 0, 0x80, 0xF1, 0xFF, 0x1E, 0x4B, 0]).digH4.toInt = -2047 ∧
    (reassemble HLayout.default true blockTP [0x6F, 1, 0, 0x80, 0xF1, 0xFF, 0x1E, 0x4B, 0]).digH5.toInt = -1 := by decide

/-- T2, T3 and the wrapping T7. -/
theorem test_comp_t :
    (compTFine 0 27504 26435 (-1000)).toInt = -721301 ∧ (compTInt (-721301)).toInt = -14088 ∧
    (compTFine 1048575 27504 26435 (-1000)).toInt = 960246 ∧ (compTFine 0 65535 32767 32767).toInt = 31 := by decide

/-- V-P1, the negative final value of V-P3, and the guard of V-P9. -/
theorem test_comp_p :
    compP 415148 128422 setK = some 25767233 ∧ compP 1048575 128422 setK = some 4293269792 ∧
    compP 415148 128422 { setK with digP1 := 0 } = none := by decide

/-- V-H1, V-H2, V-H3. -/
theorem test_comp_h :
    compH 32768 128422 setK = 73398 ∧ compH 0 128422 setK = 0 ∧ compH 65535 128422 setK = 102400 := by decide

/-! ## The commands, at most two tests each -/

/-- I6: the identity read failed but its byte matches, so the power byte is written. -/
theorem test_init_acc : after (exec .initAcc (start [.failure [0xE5], .failure []] Coefs.zero 5))
    (fun t => t.result == 0x0201 &&
      t.bus.history == [.rd 0x53 0x00 1 [0xE5] .fail, .wr 0x53 0x2D 0x08 .fail]) = true := by decide

/-- I3. -/
theorem test_init_acc_mismatch : after (exec .initAcc (start [.success [0xE6]] Coefs.zero 5))
    (fun t => t.result == 0x0002 && t.bus.history == [.rd 0x53 0x00 1 [0xE6] .ok]) = true := by decide

/-- A10. -/
theorem test_read_acc : after (exec .readAcc (start quiet Coefs.zero 5))
    (fun t => t.acc == ⟨.binary32 0x3F7F9724, .binary32 0xBB7F9724, .binary32 0xC2FF9724⟩ && t.result == 0) = true := by
  decide

/-- A11: the outputs are overwritten although the read failed. -/
theorem test_read_acc_failed : after (exec .readAcc (start [.failure [0xFF, 0x7F, 0x01, 0x00, 0x64, 0x00]] Coefs.zero 5))
    (fun t => t.acc == ⟨.binary32 0x42FF9525, .binary32 0x3B7F9724, .binary32 0x3EC7AE14⟩ && t.result == 0x0101) = true := by
  decide

/-- E1. -/
theorem test_init_env : after (exec .initEnv (start quiet Coefs.zero 5))
    (fun t => t.env.coefs == setK && t.env.calValid && t.result == 0 && t.env.tFine == 5 &&
      t.bus.history ==
        [.rd 0x76 0xD0 1 [0x60] .ok, .wr 0x76 0xE0 0xB6 .ok, .wt 100, .wr 0x76 0xF5 0x10 .ok, .rd 0x76 0x88 24 blockTP .ok,
          .rd 0x76 0xE1 9 blockH .ok, .wr 0x76 0xF2 0x01 .ok, .wr 0x76 0xF4 0x27 .ok]) = true := by decide +kernel

/-- E10. -/
theorem test_init_env_cal_fail :
    after (exec .initEnv (start [.failure [0x60], .failure [], .failure [], .memory, .failure []] setK 5))
      (fun t => t.env.coefs == Coefs.zero && !t.env.calValid && t.result == 0x0405 && t.bus.history.length == 6) = true := by
  decide

/-- CL1. -/
theorem test_load_cal : after (exec .loadCal (start quiet Coefs.zero 5))
    (fun t => t.env.coefs == setK && t.env.calValid && t.result == 0 &&
      t.bus.history == [.rd 0x76 0x88 24 blockTP .ok, .rd 0x76 0xE1 9 blockH .ok]) = true := by decide +kernel

/-- CL3, from a good set: CL4's second command. -/
theorem test_load_cal_failed : after (exec .loadCal (start [.memory, .failure blockH] setK 5))
    (fun t => t.env.coefs == Coefs.zero && !t.env.calValid && t.result == 0x0105) = true := by decide

/-- T10. -/
theorem test_read_temp : after (exec .readTemp (start quiet setK 5))
    (fun t => t.env.tFine == 128422 && t.env.temp == .binary32 0x41C8A3D7 && t.result == 0) = true := by decide

/-- T13. -/
theorem test_read_temp_failed : after (exec .readTemp (start [.failure [0xFF, 0xFF, 0xFF]] setK 5))
    (fun t => t.env.tFine == 960246 && t.result == 0x0101) = true := by decide

/-- V-P14. -/
theorem test_read_press : after (exec .readPress (start quiet setK 128422))
    (fun t => t.env.press == .binary32 0x47C496A0 && t.env.tFine == 128422 && t.result == 0) = true := by decide

/-- V-P16: both flags; PRESS keeps its value. -/
theorem test_read_press_compute_err : after (exec .readPress (start [.failure []] Coefs.zero 12345))
    (fun t => t.env.press == .binary32 0 && t.result == 0x0109) = true := by decide

/-- V-H14. -/
theorem test_read_hum : after (exec .readHum (start quiet setK 128422))
    (fun t => t.env.hum == .binary32 0x428F5B00 && t.result == 0) = true := by decide +kernel

/-- V-H16. -/
theorem test_read_hum_failed : after (exec .readHum (start [.failure [0xFF, 0xFF]] setK 128422))
    (fun t => t.env.hum == .binary32 0x42C80000 && t.result == 0x0101) = true := by decide +kernel

/-! ## The host's port, and the harness -/

/-- X5: an illegal word replaces RESULT whole. -/
theorem test_illegal_word : after (step ((hosted [.write 0 0x55]).setResult 0x0105))
    (fun t => t.result == 0x0010 && t.bus.history == [] && t.activity == .idle) = true := by decide

/-- R18: T_FINE reads the s32 register. -/
theorem test_host_read : after (step (hosted [.read 0x03])) (fun t => t.host.data == some (.s32 128422)) = true := by
  decide

/-- The harness runs the word it is given, first of all, from reset. -/
theorem test_harness : step (State.reset.withFetchWord 8 0x23) = exec .readPress State.reset := rfl

/-! ## Witnesses

One for each obligation with hypotheses, named after it; where a statement has several clauses over one input, one at a
boundary of each. -/

theorem witness_step_runs_decoded_command :
    let s := hosted [.write 0x00 0x10, .reset]
    s.cfg.wf = true ∧ s.activity = .idle ∧ s.host.pending = .write 0x00 0x10 :: [.reset] ∧
      decode 0x10 = .command .initAcc := by decide

theorem witness_illegal_word_sets_only_result :
    let s := hosted [.write 0x00 0x25]
    s.cfg.wf = true ∧ s.activity = .idle ∧ s.host.pending = .write 0x00 0x25 :: [] ∧
      (0x25#8) ∉ Claims.commandWords.map Prod.fst ∧ (0x0F#8) ∉ Claims.commandWords.map Prod.fst := by decide

theorem witness_idle_engine_waits :
    let s := hosted []
    s.cfg.wf = true ∧ s.activity = .idle ∧ s.host.pending = [] := by decide

theorem witness_bad_configuration :
    (step { hosted [] with cfg := { Params.default with envModeWrites := [] } } = .refused .badConfiguration) ∧
      step (hosted []) = .next (hosted []) := ⟨rfl, rfl⟩

/-- Reads of listed registers at both ends of both ranges. -/
theorem witness_host_register_map_read :
    let s := hosted [.read 0x01]
    s.cfg.wf = true ∧ s.activity = .idle ∧ s.host.pending = .read 0x01 :: [] ∧
      (0x01, HostValue.u16 0x0000) ∈ Claims.registerMap s ∧ (0x09, HostValue.out (.binary32 0)) ∈ Claims.registerMap s ∧
      (0x10, HostValue.u16 27504) ∈ Claims.registerMap s ∧ (0x21, HostValue.s8 30) ∈ Claims.registerMap s := by decide

/-- Refused reads: CMD and the numbers next to the ranges. -/
theorem witness_host_register_map_refused_read :
    let s := hosted [.read 0x0A]
    s.cfg.wf = true ∧ s.activity = .idle ∧ s.host.pending = .read 0x0A :: [] ∧
      [0x00, 0x0A, 0x0F, 0x22].all (fun reg => !((Claims.registerMap s).map Prod.fst).contains reg) = true := by decide

theorem witness_host_register_map_write :
    let s := hosted [.write 0x01 0x10]
    s.cfg.wf = true ∧ s.activity = .idle ∧ s.host.pending = .write 0x01 0x10 :: [] ∧ 0x01 ≠ 0x00 := by decide

theorem witness_host_register_map_command :
    let s := hosted [.write 0x00 0x24]
    s.cfg.wf = true ∧ s.activity = .idle ∧ s.host.pending = .write 0x00 0x24 :: [] ∧
      decode 0x24 = .command .readHum := by decide

theorem witness_host_register_map_illegal :
    let s := hosted [.write 0x00 0x25]
    s.cfg.wf = true ∧ s.activity = .idle ∧ s.host.pending = .write 0x00 0x25 :: [] ∧ decode 0x25 = .illegal 0x25 := by
  decide

theorem witness_host_register_map_busy :
    let s := (hosted []).setActivity .busy
    s.cfg.wf = true ∧ s.activity = .busy := by decide

theorem witness_reset_leaves_table_values :
    let s := hosted [.reset]
    s.cfg.wf = true ∧ s.activity = .idle ∧ s.host.pending = .reset :: [] := by decide

theorem witness_unanswered_operation :
    let s := start [.silent] setK 5
    s.cfg.wf = true ∧ s.bus.answers = .silent :: [] := by decide

/-- Responsive states: answers from memory, failures, and none scheduled (free values). For the outcome statements of all
seven commands. -/
theorem witness_responsive :
    Responsive (start quiet setK 5) ∧ Responsive (start [.failure [], .success []] setK 5) ∧
      Responsive (start [] setK 5) := by decide

/-- Both paths of `InitAccOutcome` are taken. -/
theorem witness_init_acc_paths :
    Responsive (start quiet Coefs.zero 5) ∧ Responsive (start [.failure [0x00]] Coefs.zero 5) ∧
    after (exec .initAcc (start quiet Coefs.zero 5)) (fun t => t.result == outcomeWord 0x0000 0) = true ∧
    after (exec .initAcc (start [.failure [0x00]] Coefs.zero 5)) (fun t => t.result == outcomeWord 0x0002 1) = true := by
  decide

/-- All four paths of `InitEnvOutcome` are taken: E1, E4, E9, E8. -/
theorem witness_init_env_paths :
    after (exec .initEnv (start quiet Coefs.zero 5)) (fun t => t.result == outcomeWord 0x0000 0) = true ∧
    after (exec .initEnv (start [.failure [0x00]] Coefs.zero 5)) (fun t => t.result == outcomeWord 0x0002 1) = true ∧
    after (exec .initEnv (start [.memory, .memory, .memory, .failure []] Coefs.zero 5))
      (fun t => t.result == outcomeWord 0x0004 1 && t.bus.history.length == 5) = true ∧
    after (exec .initEnv (start [.memory, .memory, .memory, .memory, .failure []] Coefs.zero 5))
      (fun t => t.result == outcomeWord 0x0004 1 && t.bus.history.length == 6) = true := by decide

/-- All three paths of `LoadCalOutcome` are taken: CL1, CL2, CL3. -/
theorem witness_load_cal_paths :
    after (exec .loadCal (start quiet setK 5)) (fun t => t.result == 0x0000 && t.bus.history.length == 2) = true ∧
    after (exec .loadCal (start [.failure []] setK 5)) (fun t => t.result == 0x0105 && t.bus.history.length == 1) = true ∧
    after (exec .loadCal (start [.memory, .failure []] setK 5))
      (fun t => t.result == 0x0105 && t.bus.history.length == 2) = true := by decide

/-- Both arms of `ReadPressOutcome` are taken. -/
theorem witness_read_press_paths :
    Claims.press (Claims.adc20 [0x65, 0x5A, 0xC0]) 128422 setK = some 25767233 ∧
    Claims.press (Claims.adc20 [0x65, 0x5A, 0xC0]) 12345 Coefs.zero = none := by decide

/-- Every command answers a next state, back in IDLE, from a state with well-formed parameters. For the statements whose
hypothesis is that `exec` answers a next state. -/
theorem witness_commands_complete (i : Instr) :
    (start quiet setK 128422).cfg.wf = true ∧
      ∃ t, exec i (start quiet setK 128422) = .next t ∧ t.activity = .idle := by
  refine ⟨by decide, ?_⟩
  cases i <;> exact ⟨_, rfl, rfl⟩

/-- The constructors the frame's clauses name, and an address INIT_ENV and INIT_ACC do not store to. -/
theorem witness_frames :
    (.readPress : Instr) ≠ .readAcc ∧ (.readHum : Instr) ≠ .initEnv ∧ (.readHum : Instr) ≠ .loadCal ∧
    (.readAcc : Instr) ≠ .readTemp ∧ (.readTemp : Instr) ≠ .readPress ∧ (.initEnv : Instr) ≠ .readHum ∧
    (.loadCal : Instr) ∈ [Instr.readAcc, .loadCal, .readTemp, .readPress, .readHum] ∧
    (0x7688 : Nat) ≠ sensorAddr Params.default.accAddr Params.default.accRegPower ∧
    (0x7688 : Nat) ≠ sensorAddr Params.default.envAddr Params.default.envRegReset ∧
    (0x7688 : Nat) ≠ sensorAddr Params.default.envAddr Params.default.envRegConfig ∧
    (0x7688 : Nat) ∉ Params.default.envModeWrites.map (fun rv => sensorAddr Params.default.envAddr rv.1) ∧
    (start quiet setK 5).bus.mem.wf = true := by decide

/-- Both handles have commands, and the three ENV decoders are named. -/
theorem witness_handles :
    Instr.initAcc.handle = .acc ∧ Instr.loadCal.handle = .env ∧
      (.readTemp : Instr) ∈ [Instr.readTemp, .readPress, .readHum] := by decide

/-- The outputs of `CommandsIgnoreOutputs` on each path: written, kept on COMPUTE_ERR, kept when never answered. -/
theorem witness_outputs :
    after (exec .readPress (start quiet setK 128422))
      (fun t => t.activity == .idle && !resComputeErr t.result && t.env.press == .binary32 0x47C496A0) = true ∧
    after (exec .readPress (start quiet Coefs.zero 128422))
      (fun t => t.activity == .idle && resComputeErr t.result && t.env.press == .binary32 0) = true ∧
    after (exec .readHum (start [.silent] setK 128422))
      (fun t => t.activity == .busy && t.env.hum == .binary32 0) = true := by decide

/-- A state that meets the invariant and takes a step that writes everything the invariant speaks of. -/
theorem witness_invariant :
    (hosted [.write 0x00 0x20]).bus.mem.wf = true ∧
    calConsistent { hosted [.write 0x00 0x20] with env := { State.reset.env with coefs := setK, calValid := true } } = true ∧
    calConsistent State.reset = true ∧ resultLegal (hosted [.write 0x00 0x20]).result = true ∧
    after (step (hosted [.write 0x00 0x20])) (fun _ => true) = true := by decide

/-- A calibrated state whose history shows where its coefficients come from, about to run a command. -/
def calibrated : State :=
  { hosted [.write 0x00 0x22] with
    env := { State.reset.env with coefs := setK, calValid := true, tFine := 5 }
    bus :=
      { mem := imageM1, answers := quiet, draws := 0
        history := [.wt 100, .rd 0x76 0x88 24 blockTP .ok, .rd 0x76 0xE1 9 blockH .ok, .wr 0x76 0xF2 0x01 .ok] } }

theorem witness_calibration_provenance : calProvenance calibrated ∧ ∃ t, step calibrated = .next t :=
  ⟨fun _ _ => ⟨[.wt 100], [.wr 0x76 0xF2 0x01 .ok], blockTP, blockH, rfl, rfl, rfl, by decide, rfl⟩, _, rfl⟩

theorem witness_address_map :
    (∀ e ∈ calibrated.bus.history, ∃ i, allowedFor calibrated.cfg i e) ∧ ∃ t, step calibrated = .next t := by
  refine ⟨?_, _, rfl⟩
  intro e he
  refine ⟨.initEnv, ?_⟩
  simp only [calibrated, List.mem_cons, List.not_mem_nil, or_false] at he
  obtain rfl | rfl | rfl | rfl := he
  · exact ⟨rfl, rfl⟩
  · exact ⟨by decide, rfl⟩
  · exact ⟨by decide, rfl⟩
  · show _ ∈ _
    decide

/-- A step that changes `t_fine`, by READ_TEMP and by the reset event, and one that does not. -/
theorem witness_t_fine_changes :
    after (step calibrated) (fun t => t.env.tFine == 128422) = true ∧
    after (step (hosted [.reset])) (fun _ => true) = true ∧
    after (step (hosted [.write 0x00 0x24])) (fun t => t.env.tFine == 128422) = true := by decide

/-- A step of the longest command: 22 events with sixteen mode writes. -/
theorem witness_longest_step :
    after (step { hosted [.write 0x00 0x20] with
        cfg := { Params.default with envModeWrites := List.replicate 16 (0xF4, 0x27) }
        bus := { mem := imageM1, answers := List.replicate 21 .memory, draws := 0, history := [] } })
      (fun t => t.bus.history.length == 22) = true := by decide

/-- The first and the last byte of a block, a canonical memory, and an address beside the one stored to. -/
theorem witness_sensor_memory :
    (start quiet setK 5).bus.answers = .memory :: List.replicate 7 .memory ∧ (start quiet setK 5).bus.mem.wf = true ∧
    0 < 24 ∧ 23 < 24 ∧ (0x76E1 : Nat) ≠ sensorAddr 0x76 0xE0 := by decide

theorem witness_wrap_around : 0 < 32 ∧ (2147483647#32).toInt + (1#32).toInt = 2147483648 := by decide

theorem witness_shifts : 0 < 32 ∧ 31 < 32 ∧ (63 : Nat) < 64 := by decide

theorem witness_width_conversions : 0 < 16 ∧ 16 ≤ 16 ∧ 16 < 32 ∧ 0 < 1 := by decide

/-- Both clauses of the division: the overflowing pair, and a pair beside it. -/
theorem witness_division :
    (-1#64).toInt ≠ 0 ∧ (-9223372036854775808#64).toInt = -9223372036854775808 ∧ (-1#64).toInt = -1 ∧
    ¬((-9223372036854775807#64).toInt = -9223372036854775808 ∧ (-1#64).toInt = -1) := by decide

theorem witness_uncalibrated_decodes :
    (start quiet Coefs.zero 5).env.coefs = Coefs.zero ∧
    after (exec .readTemp (start quiet Coefs.zero 5)) (fun t => t.activity == .idle && t.env.tFine == 0) = true ∧
    after (exec .readPress (start quiet Coefs.zero 5)) (fun t => t.activity == .idle && t.result == 0x0008) = true ∧
    after (exec .readHum (start quiet Coefs.zero 5))
      (fun t => t.activity == .idle && t.env.hum == .binary32 0) = true := by decide

/-- A monotone conversion exists. -/
theorem witness_humidity_bound : ∀ p q : Rat, p ≤ q → id p ≤ id q := fun _ _ h => h

/-- Two coefficient sets that agree on P1, P2 and P3 alone, and both sides of the guard. -/
theorem witness_pressure_guard :
    setK.digP1 = { setK with digP7 := 0, digT1 := 0 }.digP1 ∧ setK.digP2 = { setK with digP7 := 0, digT1 := 0 }.digP2 ∧
    setK.digP3 = { setK with digP7 := 0, digT1 := 0 }.digP3 ∧ Coefs.zero.digP1 = 0 ∧
    (pressProduct 1176576 1 (-32768) 0).toInt = 0 ∧ ¬(pressProduct 128422 36477 (-10685) 3024).toInt < 8589934592 := by
  decide

/-- Both ends of the sample range of `ExampleTemperatureRange` (T2, T3). -/
theorem witness_example_temperature_range :
    (0 : Nat) ≤ 1048575 ∧ (1048575 : Nat) ≤ 1048575 ∧ (compTFine (BitVec.ofNat 32 0) 27504 26435 (-1000)).toInt = -721301 ∧
    (compTFine (BitVec.ofNat 32 1048575) 27504 26435 (-1000)).toInt = 960246 := by decide

/-- Both sides of zero, and a rational that the default converts to infinity. -/
theorem witness_fround_monotone :
    mkRat (-1) 3 ≤ mkRat 1 3 ∧ mkRat 1 3 ≤ mkRat (2 ^ 128) 1 ∧
    (numberOf (fround .binary32 (mkRat (-1) 3))).le (numberOf (fround .binary32 (mkRat 1 3))) = true ∧
    numberOf (fround .binary32 (mkRat (2 ^ 128) 1)) = .plusInfinity := by decide

/-- A number of the default's format, and under every choice the number 0 (P1). -/
theorem witness_fround_exact_number (k : Nat) :
    numberOf (fround .binary32 (mkRat 1 3)) = .number (value32 0x3EAAAAAB#32) ∧
      numberOf (fround (.other k) 0) = .number 0 :=
  ⟨by decide, (Config.otherFround k).zero⟩

/-- The least s16, the greatest T_int, the greatest u32 and the greatest H_int give rationals of the engine's range. -/
theorem witness_engine_produces :
    engineProduces (mkRat (-32768 * 39) 10000) ∧ engineProduces (mkRat 8388607 100) ∧
    engineProduces (mkRat 4294967295 256) ∧ engineProduces (mkRat 102400 1024) :=
  ⟨⟨-32768, .inl ⟨by decide, by decide, rfl⟩⟩, ⟨8388607, .inr (.inl ⟨by decide, by decide, rfl⟩)⟩,
    ⟨4294967295, .inr (.inr (.inl ⟨by decide, by decide, rfl⟩))⟩, ⟨102400, .inr (.inr (.inr ⟨by decide, by decide, rfl⟩))⟩⟩

/-- The least subnormal, the greatest number and negative zero are numbers; infinity is none. -/
theorem witness_fround_exact :
    isFinite32 0x00000001#32 = true ∧ isFinite32 0x7F7FFFFF#32 = true ∧ isFinite32 0x80000000#32 = true ∧
      (0x7F7FFFFF#32) ≠ 0x80000000#32 ∧ isFinite32 0x7F800000#32 = false := by decide

/-- Zero, and both ends of the range of the error bound. -/
theorem witness_fround_error_bound :
    (0 : Rat) = 0 ∧ mkRat 1 1024 ≤ |mkRat 1 1024| ∧ |mkRat (-2147483648) 100| ≤ mkRat 2147483648 100 := by
  refine ⟨rfl, le_abs_self _, ?_⟩
  rw [abs_le]
  decide

end Sys2Proof.Tests
end

section
/-! PROOFS. Scope (spec/00_scope.md): which parameters the machine runs on (R6, R7), and what a command adds to the event
history (R38). -/

namespace Sys2Proof

/-! ## The parameters' constraints and the refusal -/

theorem blockFits_iff (reg : RegOffset) (n : Nat) : blockFits reg n = true ↔ reg.toNat + n ≤ 256 := decide_eq_true_iff

/-- The constraints of R7 and R6, one by one. -/
theorem Params.wf_iff (p : Params) :
    p.wf = true ↔
      p.envAddr ≠ p.accAddr ∧ p.calTpBase.toNat + 24 ≤ 256 ∧ p.calHBase.toNat + 9 ≤ 256 ∧
        p.envRegPress.toNat + 3 ≤ 256 ∧ p.envRegTemp.toNat + 3 ≤ 256 ∧ p.envRegHum.toNat + 2 ≤ 256 ∧
        p.accRegData.toNat + 6 ≤ 256 ∧ p.hLayout.indexes.Nodup ∧
        1 ≤ p.envModeWrites.length ∧ p.envModeWrites.length ≤ 16 := by
  simp only [Params.wf, Bool.and_eq_true, bne_iff_ne, blockFits_iff, decide_eq_true_eq, and_assoc, Config.calTpLen,
    Config.calHLen, Config.tpSampleLen, Config.hSampleLen, Config.accSampleLen]

end Sys2Proof

namespace Sys2Proof.Machine

/-- The steps of a command, between its beginning and its end. -/
def commandBody : Instr → Work → Run Verdict
  | .initAcc => initAccBody
  | .readAcc => readAccBody
  | .initEnv => initEnvBody
  | .loadCal => loadCalBody
  | .readTemp => readTempBody
  | .readPress => readPressBody
  | .readHum => readHumBody

/-- Every command is run from its beginning to its end, and answers a next state (R46). -/
theorem exec_eq_runCommand (i : Instr) (s : State) : exec i s = .next (runCommand (commandBody i) s) := by
  cases i <;> rfl

/-- A write to `CMD` is never refused (R44, R45). -/
theorem issue_ne_refused (word : Byte) (s : State) (r : Refusal) : issue word s ≠ .refused r := by
  unfold issue
  split
  next i _ => simp [exec_eq_runCommand]
  next => simp

/-- A host move is refused for its register number alone (R18). -/
theorem hostMove_ne_badConfiguration (m : HostMove) (s : State) : hostMove m s ≠ .refused .badConfiguration := by
  cases m with
  | write reg v =>
    simp only [hostMove]
    split
    · exact issue_ne_refused v s _
    · simp
  | read reg =>
    simp only [hostMove]
    split <;> simp
  | reset => simp [hostMove]

theorem turn_ne_badConfiguration (s : State) : turn s ≠ .refused .badConfiguration := by
  unfold turn
  split
  · simp
  · split
    · simp
    · exact hostMove_ne_badConfiguration _ _

theorem step_eq_badConfiguration_iff (s : State) : step s = .refused .badConfiguration ↔ ¬ s.cfg.wf = true := by
  unfold step
  split
  next hwf => simp [hwf, turn_ne_badConfiguration]
  next hwf => simp [hwf]

/-- Settles O7: a step looks at the constraints first, and no turn of the engine is refused for them. -/
theorem badConfigurationIsRefused : Obligations.BadConfigurationIsRefused := fun s =>
  (step_eq_badConfiguration_iff s).trans (not_congr (Params.wf_iff s.cfg))

/-! ## The events of a command -/

/-- The work a part of a command ends in, done or stuck. -/
def Run.work {α : Type} : Run α → Work
  | .done _ w => w
  | .stuck w => w

/-- Started on `w`, and whether it ends done or stuck, the part issues at most `n` events, each of them `ok`. -/
def Run.Issues {α : Type} (r : Run α) (w : Work) (ok : Event → Prop) (n : Nat) : Prop :=
  ∃ evs, Trace w r.work evs ∧ (∀ e ∈ evs, ok e) ∧ evs.length ≤ n

section
variable {α β : Type} {w w' : Work} {ok : Event → Prop} {m n : Nat}

theorem Run.Issues.mono {r : Run α} (h : r.Issues w ok m) (hmn : m ≤ n) : r.Issues w ok n := by
  obtain ⟨evs, ht, hok, hlen⟩ := h
  exact ⟨evs, ht, hok, hlen.trans hmn⟩

/-- A part that writes only registers of its handle issues nothing. -/
theorem Run.Issues.done (a : α) (h : Trace w w' []) : (Run.done a w').Issues w ok n :=
  ⟨[], h, by simp, Nat.zero_le n⟩

theorem Run.Issues.stuck : (Run.stuck w : Run α).Issues w ok n := ⟨[], Trace.refl w, by simp, Nat.zero_le n⟩

theorem Run.Issues.single {r : Run α} {e : Event} (h : Trace w r.work [e]) (he : ok e) : r.Issues w ok 1 :=
  ⟨[e], h, by simpa using he, le_refl 1⟩

/-- The events of two parts, one after another (R35). -/
theorem Run.Issues.andThen {r : Run α} {k : α → Work → Run β} (hr : r.Issues w ok m)
    (hk : ∀ a w1, w1.state.cfg = w.state.cfg → (k a w1).Issues w1 ok n) : (r.andThen k).Issues w ok (m + n) := by
  obtain ⟨e1, ht1, hok1, hl1⟩ := hr
  cases r with
  | stuck w1 => exact ⟨e1, ht1, hok1, hl1.trans (Nat.le_add_right m n)⟩
  | done a w1 =>
    obtain ⟨e2, ht2, hok2, hl2⟩ := hk a w1 ht1.cfg
    refine ⟨e1 ++ e2, ht1.trans ht2, ?_, by simpa using Nat.add_le_add hl1 hl2⟩
    intro e he
    exact (List.mem_append.1 he).elim (hok1 e) (hok2 e)

theorem memRead_issues {dev : DevAddr} {reg : RegOffset} {len : Nat}
    (h : ∀ b st, b.length = len → ok (.rd dev reg len b st)) : (memRead w dev reg len).Issues w ok 1 := by
  rcases memRead_trace w dev reg len with hs | ⟨b, st, w', hd, ht, hl, -, -⟩
  · exact hs ▸ .stuck
  · exact hd ▸ .single ht (h b st hl)

theorem memWrite_issues {dev : DevAddr} {reg : RegOffset} {v : Byte} (h : ∀ st, ok (.wr dev reg v st)) :
    (memWrite w dev reg v).Issues w ok 1 := by
  rcases memWrite_trace w dev reg v with hs | ⟨st, w', hd, ht, -, -⟩
  · exact hs ▸ .stuck
  · exact hd ▸ .single ht (h st)

theorem memWriteAll_issues {dev : DevAddr} {l : List (RegOffset × Byte)}
    (h : ∀ rv ∈ l, ∀ st, ok (.wr dev rv.1 rv.2 st)) : (memWriteAll dev l w).Issues w ok l.length := by
  induction l generalizing w with
  | nil => exact .done () (Trace.refl w)
  | cons rv rest ih =>
    rw [List.length_cons, Nat.add_comm]
    refine (memWrite_issues (h rv List.mem_cons_self)).andThen fun _ w1 _ => ih ?_
    exact fun rv' hrv' => h rv' (List.mem_cons_of_mem rv hrv')

theorem identityCheck_issues {dev : DevAddr} {reg : RegOffset} {expected : Byte}
    (h : ∀ b st, b.length = 1 → ok (.rd dev reg 1 b st)) : (identityCheck w dev reg expected).Issues w ok 1 :=
  (memRead_issues h).andThen (n := 0) fun _ w1 _ => .done _ (Trace.refl w1)

/-- The loader reads its two blocks at most once each (R70). -/
theorem calLoad_issues (htp : ∀ b st, b.length = 24 → ok (.rd w.state.cfg.envAddr w.state.cfg.calTpBase 24 b st))
    (hh : ∀ b st, b.length = 9 → ok (.rd w.state.cfg.envAddr w.state.cfg.calHBase 9 b st)) :
    (calLoad w).Issues w ok (1 + 1) := by
  refine (memRead_issues htp).andThen fun rt w1 hcfg => ?_
  cases hst : rt.2 with
  | fail => exact .done _ (commitCal_trace (Trace.refl w1) _ _)
  | ok =>
    refine (memRead_issues (hcfg ▸ hh)).andThen (n := 0) fun rh w2 _ => ?_
    cases hst2 : rh.2 with
    | fail => exact .done _ (commitCal_trace (Trace.refl w2) _ _)
    | ok => exact .done _ (commitCal_trace (Trace.refl w2) _ _)

end

/-- `INIT_ACC` reads the identity and writes the power byte (R64). -/
theorem initAccBody_issues (w : Work) : (initAccBody w).Issues w (allowedFor w.state.cfg .initAcc) (1 + 1) := by
  refine (identityCheck_issues fun b st hb => ⟨by simp [readsOf], hb⟩).andThen fun isExpected w1 hcfg => ?_
  cases isExpected with
  | false => exact .done _ (Trace.refl w1)
  | true =>
    refine (memWrite_issues fun st => ?_).andThen (n := 0) fun _ w2 _ => .done _ (Trace.refl w2)
    simp [allowedFor, writesOf, hcfg]

/-- Steps 2 and 3 of `INIT_ENV`: two writes and the delay between them (R65). -/
theorem initEnvConfigure_issues (w : Work) :
    (initEnvConfigure w).Issues w (allowedFor w.state.cfg .initEnv) (1 + (1 + 1)) := by
  refine (memWrite_issues fun st => by simp [allowedFor, writesOf]).andThen fun _ w1 hcfg => ?_
  have hwait : (Run.done () (waitMs w1 Config.envResetDelay)).Issues w1 (allowedFor w.state.cfg .initEnv) 1 :=
    .single (waitMs_trace w1 Config.envResetDelay) ⟨rfl, rfl⟩
  refine hwait.andThen (k := fun _ w2 => memWrite w2 w2.state.cfg.envAddr w2.state.cfg.envRegConfig _)
    fun _ w2 hcfg2 => memWrite_issues fun st => ?_
  simp [allowedFor, writesOf, hcfg, hcfg2]

/-- Steps 4 to 6 of `INIT_ENV`: the loader's reads and the mode writes (R65). -/
theorem initEnvCalibrate_issues (w : Work) :
    (initEnvCalibrate w).Issues w (allowedFor w.state.cfg .initEnv) ((1 + 1) + w.state.cfg.envModeWrites.length) := by
  refine (calLoad_issues (fun b st hb => ⟨by simp [readsOf], hb⟩) (fun b st hb => ⟨by simp [readsOf], hb⟩)).andThen
    fun ok w1 hcfg => ?_
  cases ok with
  | false => exact .done _ (Trace.refl w1)
  | true =>
    rw [← hcfg]
    refine (memWriteAll_issues fun rv hrv st => ?_).andThen (n := 0) fun _ w2 _ => .done _ (Trace.refl w2)
    exact List.mem_cons_of_mem _ (List.mem_cons_of_mem _ (List.mem_map_of_mem hrv))

/-- `INIT_ENV` reads the identity, configures, and calibrates (R65). -/
theorem initEnvBody_issues (w : Work) :
    (initEnvBody w).Issues w (allowedFor w.state.cfg .initEnv)
      (1 + ((1 + (1 + 1)) + ((1 + 1) + w.state.cfg.envModeWrites.length))) := by
  refine (identityCheck_issues fun b st hb => ⟨by simp [readsOf], hb⟩).andThen fun isExpected w1 hcfg => ?_
  cases isExpected with
  | false => exact .done _ (Trace.refl w1)
  | true =>
    rw [← hcfg]
    refine (initEnvConfigure_issues w1).andThen fun _ w2 hcfg2 => ?_
    rw [← hcfg2]
    exact initEnvCalibrate_issues w2

/-- `LOAD_CAL` issues the loader's reads (R67). -/
theorem loadCalBody_issues (w : Work) : (loadCalBody w).Issues w (allowedFor w.state.cfg .loadCal) (1 + 1) :=
  (calLoad_issues (fun b st hb => ⟨by simp [readsOf], hb⟩) (fun b st hb => ⟨by simp [readsOf], hb⟩)).andThen (n := 0)
    fun _ w1 _ => .done _ (Trace.refl w1)

/-- A decoder issues its one read: what it makes of the sample goes to registers of its handle. -/
theorem sample_issues {w : Work} {ok : Event → Prop} {dev : DevAddr} {reg : RegOffset} {len : Nat}
    {k : List Byte × Status → Work → Run Verdict} (h : ∀ b st, b.length = len → ok (.rd dev reg len b st))
    (hk : ∀ r w1, Trace w1 (k r w1).work []) : ((memRead w dev reg len).andThen k).Issues w ok 1 :=
  (memRead_issues h).andThen (n := 0) fun r w1 _ => ⟨[], hk r w1, by simp, le_refl 0⟩

theorem readAccBody_issues (w : Work) : (readAccBody w).Issues w (allowedFor w.state.cfg .readAcc) 1 :=
  sample_issues (fun b st hb => ⟨by simp [readsOf, Config.accSampleLen], hb⟩)
    fun _ _ => ⟨trivial, rfl, rfl, rfl, rfl, rfl, rfl⟩

theorem readTempBody_issues (w : Work) : (readTempBody w).Issues w (allowedFor w.state.cfg .readTemp) 1 :=
  sample_issues (fun b st hb => ⟨by simp [readsOf, Config.tpSampleLen], hb⟩)
    fun _ _ => ⟨trivial, rfl, rfl, rfl, rfl, rfl, rfl⟩

theorem readHumBody_issues (w : Work) : (readHumBody w).Issues w (allowedFor w.state.cfg .readHum) 1 :=
  sample_issues (fun b st hb => ⟨by simp [readsOf, Config.hSampleLen], hb⟩)
    fun _ _ => ⟨trivial, rfl, rfl, rfl, rfl, rfl, rfl⟩

theorem readPressBody_issues (w : Work) : (readPressBody w).Issues w (allowedFor w.state.cfg .readPress) 1 := by
  refine sample_issues (fun b st hb => ⟨by simp [readsOf, Config.tpSampleLen], hb⟩) fun r w1 => ?_
  cases compP (adc20 r.1) w1.state.env.tFine w1.state.env.coefs with
  | none => exact Trace.refl w1
  | some p => exact ⟨trivial, rfl, rfl, rfl, rfl, rfl, rfl⟩

/-- Every command keeps to the address map (R30); the longest is `INIT_ENV`, with six events besides its mode writes. -/
theorem commandBody_issues (i : Instr) (w : Work) :
    (commandBody i w).Issues w (allowedFor w.state.cfg i) (6 + w.state.cfg.envModeWrites.length) := by
  cases i with
  | initAcc => exact (initAccBody_issues w).mono (by omega)
  | readAcc => exact (readAccBody_issues w).mono (by omega)
  | initEnv => exact (initEnvBody_issues w).mono (by omega)
  | loadCal => exact (loadCalBody_issues w).mono (by omega)
  | readTemp => exact (readTempBody_issues w).mono (by omega)
  | readPress => exact (readPressBody_issues w).mono (by omega)
  | readHum => exact (readHumBody_issues w).mono (by omega)

/-- What a command does, whatever its path: it works through its events, all of them allowed by the address map, and then
is stuck there or ends with a verdict. -/
theorem exec_trace {i : Instr} {s t : State} (h : exec i s = .next t) :
    ∃ w evs, Trace (beginCommand s) w evs ∧ (t = w.state ∨ ∃ v, t = endCommand v w) ∧
      (∀ e ∈ evs, allowedFor s.cfg i e) ∧ evs.length ≤ 6 + s.cfg.envModeWrites.length := by
  rw [exec_eq_runCommand] at h
  cases h
  obtain ⟨evs, ht, hok, hlen⟩ := commandBody_issues i (beginCommand s)
  refine ⟨_, evs, ht, ?_, hok, hlen⟩
  rcases runCommand_cases (commandBody i) s with ⟨v, w, hbody, hrun⟩ | ⟨w, hbody, hrun⟩
  · exact .inr ⟨v, by rw [hrun, hbody, Run.work]⟩
  · exact .inl (by rw [hrun, hbody, Run.work])

/-- A command keeps the parameters, and its events stand after the earlier ones (R6, R38). -/
theorem exec_cfg_history {i : Instr} {s t : State} (h : exec i s = .next t) :
    t.cfg = s.cfg ∧
      ∃ evs, t.bus.history = s.bus.history ++ evs ∧ evs.length ≤ 6 + s.cfg.envModeWrites.length := by
  obtain ⟨w, evs, ht, hend, -, hlen⟩ := exec_trace h
  have hw : w.state.bus.history = s.bus.history ++ evs := by rw [ht.bus, busAfter_history]; rfl
  rcases hend with rfl | ⟨v, rfl⟩
  · exact ⟨ht.cfg, evs, hw, hlen⟩
  · exact ⟨ht.cfg, evs, hw, hlen⟩

/-- An illegal word's run has no steps: it ends as it begins (R44). -/
theorem illegalCommand_eq_endCommand (s : State) :
    illegalCommand s = endCommand .illegalCmd (beginCommand s) := rfl

/-- What a step does to parameters and history: it keeps both, or it runs one command. -/
theorem step_keeps_or_execs {s t : State} (h : step s = .next t) :
    (t.cfg = s.cfg ∧ t.bus.history = s.bus.history) ∨ ∃ i ms, exec i (s.setPending ms) = .next t := by
  obtain ⟨-, -, hcases⟩ := step_cases h
  rcases hcases with ⟨-, rfl⟩ | ⟨v, ms, i, -, -, hexec⟩ | ⟨word, ms, -, -, rfl⟩ | ⟨reg, ms, v, -, -, rfl⟩ | ⟨ms, -, rfl⟩
  · exact .inl ⟨rfl, rfl⟩
  · exact .inr ⟨i, ms, hexec⟩
  · exact .inl (by simp [illegalCommand_eq_endCommand])
  · exact .inl ⟨rfl, rfl⟩
  · exact .inl ⟨rfl, rfl⟩

/-- Settles O49: only a command issues events, at most six and one per mode write, and R7 allows 16 of those. -/
theorem stepsKeepParametersAndHistory : Obligations.StepsKeepParametersAndHistory := by
  intro s t h
  obtain ⟨hwf, -, -⟩ := step_cases h
  rcases step_keeps_or_execs h with ⟨hcfg, hhist⟩ | ⟨i, ms, hexec⟩
  · exact ⟨hcfg, hcfg ▸ hwf, [], by simp [hhist], by simp⟩
  · obtain ⟨hcfg, evs, hhist, hlen⟩ := exec_cfg_history hexec
    obtain ⟨-, -, -, -, -, -, -, -, -, hmodes⟩ := s.cfg.wf_iff.1 hwf
    exact ⟨hcfg, hcfg ▸ hwf, evs, hhist, hlen.trans (Nat.add_le_add_left hmodes 6)⟩

end Sys2Proof.Machine
end

section
/-! PROOFS. State (spec/10_state.md): what each command reads and writes (R11 to R16, R22), the host's register map (R18),
and what reset leaves (R23). -/

namespace Sys2Proof

/-! ## Command words -/

/-- A command word is its two fields (R42). -/
theorem wordUnit_append_wordOp (w : Byte) : wordUnit w ++ wordOp w = w :=
  BitVec.extractLsb'_append_extractLsb'_eq_extractLsb' (by rfl) |>.trans (by simp)

/-- The rows of the ACC handle (R43). -/
theorem opOf_of_decodeAccOp {op : BitVec 4} {i : Instr} (h : decodeAccOp op = some i) :
    i.handle = .acc ∧ opOf i = op := by
  unfold decodeAccOp at h
  split_ifs at h <;> cases h <;> exact ⟨rfl, by rw [‹op = _›]; rfl⟩

/-- The rows of the ENV handle (R43). -/
theorem opOf_of_decodeEnvOp {op : BitVec 4} {i : Instr} (h : decodeEnvOp op = some i) :
    i.handle = .env ∧ opOf i = op := by
  unfold decodeEnvOp at h
  split_ifs at h <;> cases h <;> exact ⟨rfl, by rw [‹op = _›]; rfl⟩

/-- A word that decodes to a command is that command's word (R43). -/
theorem eq_encode_of_decode {w : Byte} {i : Instr} (h : decode w = .command i) : w = encode i := by
  have hfields : unitOf i.handle = wordUnit w ∧ opOf i = wordOp w := by
    simp only [decode] at h
    split at h
    next j hfound =>
      cases h
      split_ifs at hfound with hacc henv
      · obtain ⟨hhandle, hop⟩ := opOf_of_decodeAccOp hfound
        exact ⟨by rw [hhandle, hacc, unitOf], hop⟩
      · obtain ⟨hhandle, hop⟩ := opOf_of_decodeEnvOp hfound
        exact ⟨by rw [hhandle, henv, unitOf], hop⟩
    next => cases h
  obtain ⟨hunit, hop⟩ := hfields
  rw [encode, hunit, hop, wordUnit_append_wordOp]

end Sys2Proof

namespace Sys2Proof.Machine

/-! ## What a step does with each move of the host -/

/-- A BUSY engine takes no move (R17; log 6). -/
theorem step_of_busy {s : State} (hwf : s.cfg.wf = true) (h : s.activity = .busy) : step s = .fault .transportSilent := by
  simp [step, hwf, turn, h]

/-- An IDLE engine takes the host's next move (R17). -/
theorem step_of_idle {s : State} {m : HostMove} {ms : List HostMove} (hwf : s.cfg.wf = true) (h : s.activity = .idle)
    (hp : s.host.pending = m :: ms) : step s = hostMove m (s.setPending ms) := by
  simp [step, hwf, turn, h, hp]

theorem issue_of_command {v : Byte} {i : Instr} (h : decode v = .command i) (s : State) : issue v s = exec i s := by
  simp [issue, h]

theorem issue_of_illegal {v w : Byte} (h : decode v = .illegal w) (s : State) :
    issue v s = .next (illegalCommand s) := by
  simp [issue, h]

/-- An illegal word given to an IDLE engine changes `RESULT` alone (R44). -/
theorem illegalCommand_of_idle {s : State} (h : s.activity = .idle) : illegalCommand s = s.setResult 0x0010#16 := by
  have hword : resultWord .illegalCmd 0 = 0x0010#16 := by decide
  rw [illegalCommand_eq_endCommand, endCommand, beginCommand_failed, hword]
  cases s
  cases h
  rfl

/-! ## The readable registers (R18) -/

/-- The numbers listed: 0x01 to 0x09 and the 18 coefficients from 0x10 on. -/
theorem registerMap_numbers (s : State) :
    (Claims.registerMap s).map Prod.fst = List.range' 0x01 9 ++ List.range' 0x10 18 := rfl

/-- A listed register reads as its contents. -/
theorem hostRead_of_mem {s : State} {reg : Nat} {val : HostValue} (h : (reg, val) ∈ Claims.registerMap s) :
    hostRead reg s = some val := by
  have hall : (Claims.registerMap s).Forall fun p => hostRead p.1 s = some p.2 := by
    and_intros <;> rfl
  exact List.forall_iff_forall_mem.1 hall _ h

/-- What can be read is listed. -/
theorem mem_numbers_of_hostRead {s : State} {reg : Nat} {val : HostValue} (h : hostRead reg s = some val) :
    reg ∈ (Claims.registerMap s).map Prod.fst := by
  rw [registerMap_numbers, List.mem_append, List.mem_range'_1, List.mem_range'_1]
  unfold hostRead at h
  split_ifs at h
  any_goals omega
  next =>
    obtain ⟨hlt, -⟩ := List.getElem?_eq_some_iff.1 h
    have hlen : (coefValues s.env.coefs).length = 18 := rfl
    omega

theorem hostRead_eq_none_of_not_mem {s : State} {reg : Nat} (h : reg ∉ (Claims.registerMap s).map Prod.fst) :
    hostRead reg s = none :=
  Option.eq_none_iff_forall_ne_some.2 fun _ hv => h (mem_numbers_of_hostRead hv)

/-- Settles O8: each move is one `hostMove`, whose read goes by the register map and whose write to `CMD` by the decoder. -/
theorem hostRegisterMap : Obligations.HostRegisterMap := by
  intro s reg v ms hwf
  refine ⟨fun hidle hp => ?_, fun hidle hp => ?_, step_of_busy hwf⟩
  · have hstep := step_of_idle hwf hidle hp
    refine ⟨fun val hmem => ?_, fun hnot => ?_⟩
    · have hread : hostRead reg (s.setPending ms) = some val := hostRead_of_mem hmem
      rw [hstep, hostMove, hread]
      rfl
    · have hread : hostRead reg (s.setPending ms) = none := hostRead_eq_none_of_not_mem hnot
      rw [hstep, hostMove, hread]
  · have hstep := step_of_idle hwf hidle hp
    refine ⟨fun hreg => ?_, fun hreg => ⟨fun i hdec => ?_, fun hdec => ?_⟩⟩
    · rw [hstep, hostMove, if_neg hreg]
    · rw [hstep, hostMove, if_pos hreg, issue_of_command hdec]
      rfl
    · rw [hstep, hostMove, if_pos hreg, issue_of_illegal hdec, illegalCommand_of_idle (s := s.setPending ms) hidle]
      rfl

/-! ## Reset (R23) -/

/-- Settles O9: the step is `resetEvent`, which names every register of the table. -/
theorem resetLeavesTableValues : Obligations.ResetLeavesTableValues := by
  refine ⟨⟨rfl, rfl, rfl, rfl, rfl, rfl, rfl, rfl, by decide⟩, fun s ms hwf hidle hp => ?_⟩
  exact ⟨resetEvent (s.setPending ms), step_of_idle hwf hidle hp, rfl, rfl, rfl, rfl, rfl, rfl, rfl, rfl, rfl, rfl, rfl,
    rfl, rfl⟩

/-- Settles O43: memory lists nothing, the coefficients are zero and `RESULT` is 0x0000. -/
theorem invariantHoldsAtReset : Obligations.InvariantHoldsAtReset := ⟨rfl, rfl, rfl⟩

/-- Settles O45: `CAL_VALID` is 0. -/
theorem calibrationProvenanceHoldsAtReset : Obligations.CalibrationProvenanceHoldsAtReset := by
  intro _ hvalid
  cases hvalid

/-! ## Register writes (R22) -/

/-- The register writes of a command between its beginning and its end (R22, columns "w"). -/
inductive RegisterWrite : Instr → (State → State) → Prop
  | acc (x y z : OutValue) : RegisterWrite .readAcc fun s => s.setAcc x y z
  | cal {i : Instr} (h : i = .initEnv ∨ i = .loadCal) (c : Coefs) (valid : Bool) :
    RegisterWrite i fun s => s.commitCal c valid
  | temp (tf : BitVec 32) (v : OutValue) : RegisterWrite .readTemp fun s => (s.setTFine tf).setTemp v
  | press (v : OutValue) : RegisterWrite .readPress fun s => s.setPress v
  | hum (v : OutValue) : RegisterWrite .readHum fun s => s.setHum v

/-! ## What a command leaves unchanged -/

/-- Started on `w`, and whether it ends done or stuck, the part leaves what `φ` sees of the state unchanged. -/
def Run.Keeps {α β : Type} (r : Run α) (w : Work) (φ : State → β) : Prop := φ r.work.state = φ w.state

section
variable {α β γ : Type} {φ : State → γ} {w : Work}

/-- Two parts, one after another (R35). -/
theorem Run.Keeps.andThen {r : Run α} {k : α → Work → Run β} (hr : r.Keeps w φ) (hk : ∀ a w1, (k a w1).Keeps w1 φ) :
    (r.andThen k).Keeps w φ := by
  cases r with
  | done a w1 => exact (hk a w1).trans hr
  | stuck w1 => exact hr

variable (hφ : ∀ s t, φ (s.setBus t) = φ s)
include hφ

/-! A `φ` that bus updates leave unchanged is unchanged by the parts of a command that write no register. -/

theorem memRead_keeps (dev : DevAddr) (reg : RegOffset) (n : Nat) : (memRead w dev reg n).Keeps w φ := by
  rcases memRead_cases w dev reg n with ⟨-, h⟩ | ⟨b, st, -, h⟩
  · rw [h]; rfl
  · rw [h]; exact hφ _ _

theorem memWrite_keeps (dev : DevAddr) (reg : RegOffset) (v : Byte) : (memWrite w dev reg v).Keeps w φ := by
  rcases memWrite_cases w dev reg v with ⟨-, h⟩ | ⟨st, -, h⟩
  · rw [h]; rfl
  · rw [h]; exact hφ _ _

theorem memWriteAll_keeps (dev : DevAddr) (l : List (RegOffset × Byte)) : (memWriteAll dev l w).Keeps w φ := by
  induction l generalizing w with
  | nil => rfl
  | cons rv rest ih => exact (memWrite_keeps hφ dev rv.1 rv.2).andThen fun _ _ => ih

theorem identityCheck_keeps (dev : DevAddr) (reg : RegOffset) (expected : Byte) :
    (identityCheck w dev reg expected).Keeps w φ :=
  (memRead_keeps hφ dev reg 1).andThen fun _ _ => rfl

theorem initEnvConfigure_keeps : (initEnvConfigure w).Keeps w φ :=
  (memWrite_keeps hφ _ _ _).andThen fun _ _ => (memWrite_keeps hφ _ _ _).trans (hφ _ _)

/-- The loader changes no more than its commit does (R70). -/
theorem calLoad_keeps (hcal : ∀ s c valid, φ (State.commitCal s c valid) = φ s) : (calLoad w).Keeps w φ := by
  refine (memRead_keeps hφ _ _ _).andThen fun rt w1 => ?_
  cases rt.2 with
  | fail => exact hcal _ _ _
  | ok =>
    refine (memRead_keeps hφ _ _ _).andThen fun rh w2 => ?_
    cases rh.2 <;> exact hcal _ _ _

/-- What neither a bus update nor a register write of the command changes, the command does not change. -/
theorem commandBody_keeps {i : Instr} (hw : ∀ g, RegisterWrite i g → ∀ s, φ (g s) = φ s) :
    (commandBody i w).Keeps w φ := by
  cases i with
  | initAcc =>
    refine (identityCheck_keeps hφ _ _ _).andThen fun isExpected w1 => ?_
    cases isExpected with
    | false => rfl
    | true => exact (memWrite_keeps hφ _ _ _).andThen fun _ _ => rfl
  | readAcc => exact (memRead_keeps hφ _ _ _).andThen fun _ _ => hw _ (.acc _ _ _) _
  | initEnv =>
    refine (identityCheck_keeps hφ _ _ _).andThen fun isExpected w1 => ?_
    cases isExpected with
    | false => rfl
    | true =>
      refine (initEnvConfigure_keeps hφ).andThen fun _ _ => ?_
      refine (calLoad_keeps hφ fun s c valid => hw _ (.cal (.inl rfl) c valid) s).andThen fun ok w2 => ?_
      cases ok with
      | false => rfl
      | true => exact (memWriteAll_keeps hφ _ _).andThen fun _ _ => rfl
  | loadCal => exact (calLoad_keeps hφ fun s c valid => hw _ (.cal (.inr rfl) c valid) s).andThen fun _ _ => rfl
  | readTemp => exact (memRead_keeps hφ _ _ _).andThen fun _ _ => hw _ (.temp _ _) _
  | readPress =>
    refine (memRead_keeps hφ _ _ _).andThen fun r w1 => ?_
    cases compP (adc20 r.1) w1.state.env.tFine w1.state.env.coefs with
    | none => rfl
    | some p => exact hw _ (.press _) _
  | readHum => exact (memRead_keeps hφ _ _ _).andThen fun _ _ => hw _ (.hum _) _

end

/-- The same for the whole command, of a `φ` that does not look at `RESULT` and the activity state either. -/
theorem exec_keeps {γ : Type} {i : Instr} {s t : State} (h : exec i s = .next t) (φ : State → γ)
    (hw : ∀ g, RegisterWrite i g → ∀ s, φ (g s) = φ s) (hbus : ∀ s b, φ (State.setBus s b) = φ s := by intros; rfl)
    (hresult : ∀ s r, φ (State.setResult s r) = φ s := by intros; rfl)
    (hactivity : ∀ s a, φ (State.setActivity s a) = φ s := by intros; rfl) : φ t = φ s := by
  have hbody : φ (commandBody i (beginCommand s)).work.state = φ s := (commandBody_keeps hbus hw).trans (hactivity s .busy)
  rw [exec_eq_runCommand] at h
  cases h
  rcases runCommand_cases (commandBody i) s with ⟨v, w, hb, hrun⟩ | ⟨w, hb, hrun⟩
  · rw [hb] at hbody
    rw [hrun, endCommand, hactivity, hresult]
    exact hbody
  · rw [hb] at hbody
    rw [hrun]
    exact hbody

/-- Settles O32: each register's clause, by the writes `RegisterWrite` gives the command. -/
theorem commandsWriteOnlyTheirRegisters : Obligations.CommandsWriteOnlyTheirRegisters := by
  intro i s t h
  refine ⟨fun hacc => ?acc, fun hinit hload => ?cal, fun htemp => ?temp, fun hpress => ?press, fun hhum => ?hum, ?rest⟩
  case acc =>
    refine exec_keeps h State.acc fun g hg s => ?_
    cases hg with
    | acc => exact absurd rfl hacc
    | _ => rfl
  case cal =>
    refine Prod.mk.inj (exec_keeps h (fun s => (s.env.coefs, s.env.calValid)) fun g hg s => ?_)
    cases hg with
    | cal hi => exact (hi.elim hinit hload).elim
    | _ => rfl
  case temp =>
    refine Prod.mk.inj (exec_keeps h (fun s => (s.env.tFine, s.env.temp)) fun g hg s => ?_)
    cases hg with
    | temp => exact absurd rfl htemp
    | _ => rfl
  case press =>
    refine exec_keeps h (fun s => s.env.press) fun g hg s => ?_
    cases hg with
    | press => exact absurd rfl hpress
    | _ => rfl
  case hum =>
    refine exec_keeps h (fun s => s.env.hum) fun g hg s => ?_
    cases hg with
    | hum => exact absurd rfl hhum
    | _ => rfl
  case rest =>
    refine Prod.mk.inj (exec_keeps h (fun s => (s.cfg, s.host)) fun g hg s => ?_)
    cases hg <;> rfl

/-- Settles O48: of the moves, a command other than `READ_TEMP` keeps `t_fine` by its frame, and `READ_TEMP` has one word. -/
theorem tFineChangesOnlyByReadTempOrReset : Obligations.TFineChangesOnlyByReadTempOrReset := by
  intro s t h
  obtain ⟨-, -, hcases⟩ := step_cases h
  rcases hcases with ⟨-, rfl⟩ | ⟨v, ms, i, hp, hdec, hexec⟩ | ⟨v, ms, -, -, rfl⟩ | ⟨reg, ms, v, -, -, rfl⟩ | ⟨ms, hp, -⟩
  · exact .inl rfl
  · by_cases hi : i = .readTemp
    · subst hi
      have hv : v = 0x22#8 := eq_encode_of_decode hdec
      exact .inr (.inl ⟨ms, hv ▸ hp⟩)
    · obtain ⟨-, -, htemp, -⟩ := commandsWriteOnlyTheirRegisters _ _ _ hexec
      exact .inl (htemp hi).1
  · exact .inl (by simp [illegalCommand_eq_endCommand])
  · exact .inl rfl
  · exact .inr (.inr ⟨ms, hp⟩)

/-! ## What a command does not see -/

/-- `f` is a change of the registers that no part of a command sees: it keeps the bus and the parameters, and it may as
well be made after a bus update or a move to BUSY. -/
structure Overlay (f : State → State) : Prop where
  bus : ∀ s, (f s).bus = s.bus
  cfg : ∀ s, (f s).cfg = s.cfg
  setBus : ∀ s t, f (s.setBus t) = (f s).setBus t
  setActivity : ∀ s a, f (s.setActivity a) = (f s).setActivity a

/-- `f` changes no register that the command writes, and under a command of the ENV handle none that a decoder reads. -/
structure Unseen (i : Instr) (f : State → State) : Prop extends Overlay f where
  write : ∀ g, RegisterWrite i g → ∀ s, f (g s) = g (f s)
  operands : i.handle = .env → ∀ s, (f s).env.coefs = s.env.coefs ∧ (f s).env.tFine = s.env.tFine

/-- The same run with the state it ends in changed by `f`. -/
def Run.mapState {α : Type} (f : State → State) : Run α → Run α
  | .done a w => .done a (w.update f)
  | .stuck w => .stuck (w.update f)

/-- Two parts that each commute with the change commute with it one after another (R35). -/
theorem Run.mapState_andThen {α β : Type} {f : State → State} {k k' : α → Work → Run β} (r : Run α)
    (hk : ∀ a w, k' a (w.update f) = (k a w).mapState f) : (r.mapState f).andThen k' = (r.andThen k).mapState f := by
  cases r with
  | done a w => exact hk a w
  | stuck w => rfl

/-- A last register write that commutes with the change. -/
theorem Run.done_update {α : Type} {f g g' : State → State} {w : Work} (a : α) (h : g' (f w.state) = f (g w.state)) :
    Run.done a ((w.update f).update g') = (Run.done a (w.update g)).mapState f :=
  congrArg (fun s => Run.done a { w with state := s }) h

section
variable {f : State → State} (hf : Overlay f)
include hf

/-! The parts of a command commute with an overlay. -/

theorem memRead_update (w : Work) (dev : DevAddr) (reg : RegOffset) (n : Nat) :
    memRead (w.update f) dev reg n = (memRead w dev reg n).mapState f := by
  simp only [memRead, Work.update_state, hf.bus]
  cases readReply w.state.bus dev reg n with
  | none => rfl
  | some r => simp [Run.mapState, Work.update, hf.setBus]

theorem memWrite_update (w : Work) (dev : DevAddr) (reg : RegOffset) (v : Byte) :
    memWrite (w.update f) dev reg v = (memWrite w dev reg v).mapState f := by
  simp only [memWrite, Work.update_state, hf.bus]
  cases writeReply w.state.bus with
  | none => rfl
  | some st => simp [Run.mapState, Work.update, hf.setBus]

theorem waitMs_update (w : Work) (ms : Nat) : waitMs (w.update f) ms = (waitMs w ms).update f := by
  simp [waitMs, Work.update, hf.bus, hf.setBus]

theorem memWriteAll_update (w : Work) (dev : DevAddr) (l : List (RegOffset × Byte)) :
    memWriteAll dev l (w.update f) = (memWriteAll dev l w).mapState f := by
  induction l generalizing w with
  | nil => rfl
  | cons rv rest ih =>
    rw [memWriteAll, memWriteAll, memWrite_update hf]
    exact Run.mapState_andThen _ fun _ w1 => ih w1

theorem identityCheck_update (w : Work) (dev : DevAddr) (reg : RegOffset) (expected : Byte) :
    identityCheck (w.update f) dev reg expected = (identityCheck w dev reg expected).mapState f := by
  rw [identityCheck, identityCheck, memRead_update hf]
  exact Run.mapState_andThen _ fun _ _ => rfl

theorem initEnvConfigure_update (w : Work) : initEnvConfigure (w.update f) = (initEnvConfigure w).mapState f := by
  rw [initEnvConfigure, initEnvConfigure, Work.update_state, hf.cfg, memWrite_update hf]
  refine Run.mapState_andThen _ fun _ w1 => ?_
  simp only [waitMs_update hf, memWrite_update hf, Work.update_state, hf.cfg]

/-- The loader reads no register, so only its commit has to commute with the change (R70). -/
theorem calLoad_update (hcal : ∀ s c valid, f (State.commitCal s c valid) = (f s).commitCal c valid) (w : Work) :
    calLoad (w.update f) = (calLoad w).mapState f := by
  rw [calLoad, calLoad, Work.update_state, hf.cfg, memRead_update hf]
  refine Run.mapState_andThen _ fun rt w1 => ?_
  cases rt.2 with
  | fail => exact Run.done_update _ (hcal _ _ _).symm
  | ok =>
    simp only [Work.update_state, hf.cfg, memRead_update hf]
    refine Run.mapState_andThen _ fun rh w2 => ?_
    cases rh.2 with
    | fail => exact Run.done_update _ (hcal _ _ _).symm
    | ok => exact Run.done_update _ (by rw [hcal, hf.cfg])

end

/-- A change that a command does not see may as well be made after its steps. -/
theorem commandBody_update {i : Instr} {f : State → State} (hf : Unseen i f) (w : Work) :
    commandBody i (w.update f) = (commandBody i w).mapState f := by
  have ho := hf.toOverlay
  cases i with
  | initAcc =>
    simp only [commandBody, initAccBody, Work.update_state, hf.cfg, identityCheck_update ho]
    refine Run.mapState_andThen _ fun isExpected w1 => ?_
    cases isExpected with
    | false => rfl
    | true =>
      simp only [Work.update_state, hf.cfg, memWrite_update ho, if_true]
      exact Run.mapState_andThen _ fun _ _ => rfl
  | readAcc =>
    simp only [commandBody, readAccBody, Work.update_state, hf.cfg, memRead_update ho]
    refine Run.mapState_andThen _ fun r w1 => ?_
    exact Run.done_update _ (by rw [hf.write _ (.acc _ _ _), hf.cfg])
  | initEnv =>
    simp only [commandBody, initEnvBody, Work.update_state, hf.cfg, identityCheck_update ho]
    refine Run.mapState_andThen _ fun isExpected w1 => ?_
    cases isExpected with
    | false => rfl
    | true =>
      simp only [initEnvConfigure_update ho, if_true]
      refine Run.mapState_andThen _ fun _ w2 => ?_
      rw [initEnvCalibrate, initEnvCalibrate, calLoad_update ho fun s c valid => hf.write _ (.cal (.inl rfl) c valid) s]
      refine Run.mapState_andThen _ fun ok w3 => ?_
      cases ok with
      | false => rfl
      | true =>
        simp only [Work.update_state, hf.cfg, memWriteAll_update ho, if_true]
        exact Run.mapState_andThen _ fun _ _ => rfl
  | loadCal =>
    simp only [commandBody, loadCalBody, calLoad_update ho fun s c valid => hf.write _ (.cal (.inr rfl) c valid) s]
    exact Run.mapState_andThen _ fun _ _ => rfl
  | readTemp =>
    simp only [commandBody, readTempBody, Work.update_state, hf.cfg, memRead_update ho]
    refine Run.mapState_andThen _ fun r w1 => ?_
    exact Run.done_update _ (by rw [hf.write _ (.temp _ _), hf.cfg, (hf.operands rfl _).1])
  | readPress =>
    simp only [commandBody, readPressBody, Work.update_state, hf.cfg, memRead_update ho]
    refine Run.mapState_andThen _ fun r w1 => ?_
    simp only [Work.update_state, (hf.operands rfl _).1, (hf.operands rfl _).2]
    cases compP (adc20 r.1) w1.state.env.tFine w1.state.env.coefs with
    | none => rfl
    | some p => exact Run.done_update _ (by rw [hf.write _ (.press _), hf.cfg])
  | readHum =>
    simp only [commandBody, readHumBody, Work.update_state, hf.cfg, memRead_update ho]
    refine Run.mapState_andThen _ fun r w1 => ?_
    exact Run.done_update _ (by rw [hf.write _ (.hum _), hf.cfg, (hf.operands rfl _).1, (hf.operands rfl _).2])

/-- Such a change may as well be made before the command begins (R46). -/
theorem beginCommand_update {f : State → State} (hf : Overlay f) (s : State) :
    beginCommand (f s) = (beginCommand s).update f := by
  simp [beginCommand, Work.update, hf.setActivity]

/-- A command that is stuck is BUSY (log 6). -/
theorem activity_of_stuck {i : Instr} {s : State} {w : Work} (h : commandBody i (beginCommand s) = .stuck w) :
    w.state.activity = .busy := by
  have hkeeps : (commandBody i (beginCommand s)).Keeps (beginCommand s) State.activity :=
    commandBody_keeps (fun _ _ => rfl) fun g hg s => by cases hg <;> rfl
  rw [h] at hkeeps
  exact hkeeps

/-- The ends of a command with and without a change it does not see. -/
theorem runCommand_update_cases {i : Instr} {f : State → State} (hf : Unseen i f) (s : State) :
    (∃ v w, runCommand (commandBody i) s = endCommand v w ∧
      runCommand (commandBody i) (f s) = endCommand v (w.update f)) ∨
    ∃ w : Work, w.state.activity = .busy ∧ runCommand (commandBody i) s = w.state ∧
      runCommand (commandBody i) (f s) = f w.state := by
  have hbody : commandBody i (beginCommand (f s)) = (commandBody i (beginCommand s)).mapState f := by
    rw [beginCommand_update hf.toOverlay, commandBody_update hf]
  rcases runCommand_cases (commandBody i) s with ⟨v, w, hb, hrun⟩ | ⟨w, hb, hrun⟩
  · exact .inl ⟨v, w, hrun, by simp [runCommand, hbody, hb, Run.mapState]⟩
  · exact .inr ⟨w, activity_of_stuck hb, hrun, by simp [runCommand, hbody, hb, Run.mapState]⟩

/-- A change outside `RESULT` that a command does not see is still there when it ends, and is the only difference. -/
theorem exec_update {i : Instr} {f : State → State} (hf : Unseen i f)
    (hresult : ∀ s r, f (State.setResult s r) = (f s).setResult r) {s t : State} (h : exec i s = .next t) :
    exec i (f s) = .next (f t) := by
  rw [exec_eq_runCommand] at h ⊢
  cases h
  rcases runCommand_update_cases hf s with ⟨v, w, hs, hfs⟩ | ⟨w, -, hs, hfs⟩
  · rw [hs, hfs, endCommand, endCommand, hf.setActivity, hresult]
    rfl
  · rw [hs, hfs]

/-- Settles O39: a command of one handle does not see the other. -/
theorem handlesAreIndependent : Obligations.HandlesAreIndependent := by
  intro i s t h
  refine ⟨fun hi e => ?_, fun hi a => ?_⟩
  · have hf : Unseen i fun s => { s with env := e } :=
      { bus := fun _ => rfl, cfg := fun _ => rfl, setBus := fun _ _ => rfl, setActivity := fun _ _ => rfl
        write := fun g hg s => by
          cases hg with
          | acc => rfl
          | cal hc => rcases hc with rfl | rfl <;> cases hi
          | _ => cases hi
        operands := fun henv => by rw [hi] at henv; cases henv }
    exact exec_update hf (fun _ _ => rfl) h
  · have hf : Unseen i fun s => { s with acc := a } :=
      { bus := fun _ => rfl, cfg := fun _ => rfl, setBus := fun _ _ => rfl, setActivity := fun _ _ => rfl
        write := fun g hg s => by
          cases hg with
          | acc => cases hi
          | _ => rfl
        operands := fun _ _ => ⟨rfl, rfl⟩ }
    exact exec_update hf (fun _ _ => rfl) h

/-- Settles O40: no command sees `RESULT`, and its end overwrites it. -/
theorem commandsIgnoreOldResult : Obligations.CommandsIgnoreOldResult := by
  intro i s t r h hidle
  have hf : Unseen i fun s => s.setResult r :=
    { bus := fun _ => rfl, cfg := fun _ => rfl, setBus := fun _ _ => rfl, setActivity := fun _ _ => rfl
      write := fun g hg s => by cases hg <;> rfl
      operands := fun _ _ => ⟨rfl, rfl⟩ }
  rw [exec_eq_runCommand] at h ⊢
  cases h
  rcases runCommand_update_cases hf s with ⟨v, w, hs, hfs⟩ | ⟨w, hbusy, hs, -⟩
  · rw [hs]
    exact congrArg _ hfs
  · rw [hs, hbusy] at hidle
    cases hidle

/-- Settles O41: a decoder neither reads nor writes `CAL_VALID`. -/
theorem decodersIgnoreCalValid : Obligations.DecodersIgnoreCalValid := by
  intro i s t v hi h
  have hf : Unseen i fun s => { s with env := { s.env with calValid := v } } :=
    { bus := fun _ => rfl, cfg := fun _ => rfl, setBus := fun _ _ => rfl, setActivity := fun _ _ => rfl
      write := fun g hg s => by
        cases hg with
        | cal hc => rcases hc with rfl | rfl <;> simp at hi
        | _ => rfl
      operands := fun _ _ => ⟨rfl, rfl⟩ }
  exact exec_update hf (fun _ _ => rfl) h

/-! ## The output registers (R15) -/

/-- `COMPUTE_ERR` is set by the verdict alone (R16). -/
theorem resComputeErr_resultWord (v : Verdict) (n : Nat) :
    resComputeErr (resultWord v n) = decide (v = .computeErr) := by
  have hbit : transportFlag n = 0 ∨ transportFlag n = 1 := by
    unfold transportFlag
    split <;> simp
  have hdiv (m : Nat) : (m * 256 + verdictFlag v + transportFlag n) / 8 % 2 = verdictFlag v / 8 % 2 := by
    cases v <;> simp only [verdictFlag] <;> omega
  have hword : resComputeErr (resultWord v n) = decide (verdictFlag v / 8 % 2 = 1) := by
    simp only [resComputeErr, resultWord, BitVec.getLsbD_ofNat, Nat.testBit_eq_decide_div_mod_eq, Nat.reduceLT, decide_true,
      Bool.true_and, Nat.reducePow, hdiv]
  rw [hword]
  cases v <;> rfl

/-- The state with these values in the six output registers. -/
def giveOutputs (a : AccHandle) (temp press hum : OutValue) (s : State) : State :=
  { s with acc := a, env := { s.env with temp := temp, press := press, hum := hum } }

@[simp] theorem giveOutputs_env_coefs (a : AccHandle) (temp press hum : OutValue) (s : State) :
    (giveOutputs a temp press hum s).env.coefs = s.env.coefs := rfl
@[simp] theorem giveOutputs_env_tFine (a : AccHandle) (temp press hum : OutValue) (s : State) :
    (giveOutputs a temp press hum s).env.tFine = s.env.tFine := rfl
@[simp] theorem giveOutputs_cfg (a : AccHandle) (temp press hum : OutValue) (s : State) :
    (giveOutputs a temp press hum s).cfg = s.cfg := rfl

/-- `t'` is `t` but for the outputs: one that command `i`, ended in `t`, has written is the same, any other is the one
given. -/
def AgreeButOutputs (i : Instr) (t t' : State) (a : AccHandle) (temp press hum : OutValue) : Prop :=
  t'.env.coefs = t.env.coefs ∧ t'.env.calValid = t.env.calValid ∧ t'.env.tFine = t.env.tFine ∧
    t'.result = t.result ∧ t'.activity = t.activity ∧ t'.bus = t.bus ∧ t'.cfg = t.cfg ∧ t'.host = t.host ∧
    t'.acc = (if i = .readAcc ∧ t.activity = .idle then t.acc else a) ∧
    t'.env.temp = (if i = .readTemp ∧ t.activity = .idle then t.env.temp else temp) ∧
    t'.env.press =
      (if i = .readPress ∧ t.activity = .idle ∧ resComputeErr t.result = false then t.env.press else press) ∧
    t'.env.hum = (if i = .readHum ∧ t.activity = .idle then t.env.hum else hum)

section
variable {i : Instr} {s t : State} {a : AccHandle} {temp press hum : OutValue}

theorem giveOutputs_overlay : Overlay (giveOutputs a temp press hum) :=
  ⟨fun _ => rfl, fun _ => rfl, fun _ _ => rfl, fun _ _ => rfl⟩

/-- Where nothing was written, the outputs given stand. -/
theorem agreeButOutputs_giveOutputs (h : t.activity = .idle → i = .initAcc ∨ i = .initEnv ∨ i = .loadCal) :
    AgreeButOutputs i t (giveOutputs a temp press hum t) a temp press hum := by
  refine ⟨rfl, rfl, rfl, rfl, rfl, rfl, rfl, rfl, ?_⟩
  cases ht : t.activity with
  | busy => simp [giveOutputs]
  | idle => rcases h ht with rfl | rfl | rfl <;> simp [giveOutputs]

/-- The initializations and the loader write no output. -/
theorem exec_giveOutputs (hi : i = .initAcc ∨ i = .initEnv ∨ i = .loadCal) (h : exec i s = .next t) :
    exec i (giveOutputs a temp press hum s) = .next (giveOutputs a temp press hum t) := by
  have hf : Unseen i (giveOutputs a temp press hum) :=
    { giveOutputs_overlay with
      write := fun g hg s => by
        cases hg with
        | cal => rfl
        | _ => simp at hi
      operands := fun _ _ => ⟨rfl, rfl⟩ }
  exact exec_update hf (fun _ _ => rfl) h

/-- The state a command's run ends in. -/
def Run.ending : Run Verdict → State
  | .done v w => endCommand v w
  | .stuck w => w.state

theorem runCommand_eq_ending (body : Work → Run Verdict) (s : State) :
    runCommand body s = (body (beginCommand s)).ending := by
  rcases runCommand_cases body s with ⟨v, w, hb, hrun⟩ | ⟨w, hb, hrun⟩
  · rw [hrun, hb, Run.ending]
  · rw [hrun, hb, Run.ending]

/-- A decoder, which is one read and what it makes of the reply: stuck in the read it has written nothing, and otherwise
only what follows the read matters. -/
theorem sample_agreeButOutputs {body : Work → Run Verdict} {dev : Params → DevAddr} {reg : Params → RegOffset} {len : Nat}
    {k : List Byte × Status → Work → Run Verdict}
    (hbody : ∀ w, body w = (memRead w (dev w.state.cfg) (reg w.state.cfg) len).andThen k)
    (hk : ∀ r w, AgreeButOutputs i (k r w).ending
      (k r (w.update (giveOutputs a temp press hum))).ending a temp press hum) :
    AgreeButOutputs i (runCommand body s) (runCommand body (giveOutputs a temp press hum s)) a temp press hum := by
  have hf : Overlay (giveOutputs a temp press hum) := giveOutputs_overlay
  have hbody' (w : Work) : body (w.update (giveOutputs a temp press hum)) =
      ((memRead w (dev w.state.cfg) (reg w.state.cfg) len).mapState (giveOutputs a temp press hum)).andThen k := by
    rw [hbody, memRead_update hf, Work.update_state, hf.cfg]
  rw [runCommand_eq_ending, runCommand_eq_ending, beginCommand_update hf, hbody, hbody']
  rcases memRead_cases (beginCommand s) (dev (beginCommand s).state.cfg) (reg (beginCommand s).state.cfg) len with
    ⟨-, hread⟩ | ⟨b, st, -, hread⟩
  · rw [hread]
    exact agreeButOutputs_giveOutputs fun hidle => by cases hidle
  · rw [hread]
    exact hk _ _

end

/-- Settles O42: the initializations and the loader write no output, and each decoder writes its own after its read. -/
theorem commandsIgnoreOutputs : Obligations.CommandsIgnoreOutputs := by
  intro i s t a temp press hum h
  have hframe (hi : i = .initAcc ∨ i = .initEnv ∨ i = .loadCal) :
      ∃ t', exec i (giveOutputs a temp press hum s) = .next t' ∧ AgreeButOutputs i t t' a temp press hum :=
    ⟨_, exec_giveOutputs hi h, agreeButOutputs_giveOutputs fun _ => hi⟩
  cases i with
  | initAcc => exact hframe (.inl rfl)
  | initEnv => exact hframe (.inr (.inl rfl))
  | loadCal => exact hframe (.inr (.inr rfl))
  | readAcc | readTemp | readHum =>
    cases h
    refine ⟨_, rfl, sample_agreeButOutputs (fun _ => rfl) fun r w => ?_⟩
    exact ⟨rfl, rfl, rfl, rfl, rfl, rfl, rfl, rfl, rfl, rfl, rfl, rfl⟩
  | readPress =>
    cases h
    refine ⟨_, rfl, sample_agreeButOutputs (fun _ => rfl) fun r w => ?_⟩
    simp only [Work.update_state, giveOutputs_env_coefs, giveOutputs_env_tFine]
    cases compP (adc20 r.1) w.state.env.tFine w.state.env.coefs with
    | none =>
      refine ⟨rfl, rfl, rfl, rfl, rfl, rfl, rfl, rfl, rfl, rfl, ?_, rfl⟩
      simp [Run.ending, resComputeErr_resultWord, giveOutputs]
    | some p =>
      refine ⟨rfl, rfl, rfl, rfl, rfl, rfl, rfl, rfl, rfl, rfl, ?_, rfl⟩
      simp [Run.ending, resComputeErr_resultWord]

end Sys2Proof.Machine
end

section
/-! PROOFS. Memory (spec/20_memory.md): the reference sensor memory (R24, R25, R40), the events a command issues and where
(R30, R38), and an engine whose transport answers or does not (R41). -/

namespace Sys2Proof.Machine

/-! ## The reference sensor memory -/

section
variable {t : Bus} {rest : List Answer}

theorem nextAnswer_of_cons {a : Answer} (h : t.answers = a :: rest) : nextAnswer t = a := by
  simp [nextAnswer, h]

theorem memBytes_length (m : Memory) (dev : DevAddr) (reg : RegOffset) (n : Nat) : (memBytes m dev reg n).length = n := by
  simp [memBytes]

/-- Byte `i` of a block is the byte at the block's offset plus `i` (R24). -/
theorem memBytes_getD (m : Memory) (dev : DevAddr) (reg : RegOffset) {n i : Nat} (h : i < n) :
    (memBytes m dev reg n).getD i 0 = memGet m (sensorAddr dev (reg + BitVec.ofNat 8 i)) := by
  rw [List.getD_eq_getElem _ _ (by rwa [memBytes_length])]
  simp [memBytes]

theorem readReply_of_memory (h : t.answers = .memory :: rest) (dev : DevAddr) (reg : RegOffset) (n : Nat) :
    readReply t dev reg n = some (memBytes t.mem dev reg n, .ok) := by
  simp [readReply, nextAnswer_of_cons h]

theorem writeReply_of_memory (h : t.answers = .memory :: rest) : writeReply t = some .ok := by
  simp [writeReply, nextAnswer_of_cons h]

end

/-- Settles O12: a block is read byte by byte, and a stored byte is read back at its own address alone. -/
theorem sensorMemoryAnswers : Obligations.SensorMemoryAnswers := by
  intro t rest dev reg n v h
  refine ⟨⟨_, readReply_of_memory h dev reg n, memBytes_length _ _ _ _, fun i hi => memBytes_getD _ _ _ hi⟩,
    writeReply_of_memory h, fun hwf => ?_, fun a ha => ?_⟩
  · rw [afterWrite_mem, if_pos rfl]
    exact memGet_memPut_same hwf _ v
  · rw [afterWrite_mem, if_pos rfl]
    exact memGet_memPut_other _ _ a v ha

/-! ## Where a command's events are -/

/-- The bus a command leaves, whatever its path, is the one after its events, all of them allowed by the address map. -/
theorem exec_bus {i : Instr} {s t : State} (h : exec i s = .next t) :
    ∃ evs, answeredBy s.bus evs ∧ t.bus = busAfter s.bus evs ∧ ∀ e ∈ evs, allowedFor s.cfg i e := by
  obtain ⟨w, evs, ht, hend, hok, -⟩ := exec_trace h
  refine ⟨evs, ht.answered, ?_, hok⟩
  rcases hend with rfl | ⟨v, rfl⟩
  · exact ht.bus
  · exact ht.bus

/-- Settles O36: the history of the bus after the events has grown by them. -/
theorem commandsIssueOnlyTheirOperations : Obligations.CommandsIssueOnlyTheirOperations := by
  intro i s t h
  obtain ⟨evs, hans, hbus, hok⟩ := exec_bus h
  exact ⟨evs, by rw [hbus, busAfter_history], hans, hbus, hok⟩

/-- A command that is given no byte to write issues no write (R30). -/
theorem isWrite_of_allowedFor {p : Params} {i : Instr} {e : Event} (hi : writesOf p i = []) (h : allowedFor p i e) :
    isWrite e = false := by
  cases e with
  | rd dev reg n b st => rfl
  | wr dev reg v st =>
    have hmem : (dev, reg, v) ∈ writesOf p i := h
    rw [hi] at hmem
    cases hmem
  | wt ms => rfl

/-- Settles O33: the address map gives the five commands nothing to write. -/
theorem readCommandsStoreNothing : Obligations.ReadCommandsStoreNothing := by
  intro i s t hi h a
  have hwrites : writesOf s.cfg i = [] := by
    simp only [List.mem_cons, List.not_mem_nil, or_false] at hi
    rcases hi with rfl | rfl | rfl | rfl | rfl <;> rfl
  obtain ⟨evs, -, hbus, hok⟩ := exec_bus h
  rw [hbus, busAfter_mem_of_no_write _ _ fun e he => isWrite_of_allowedFor hwrites (hok e he)]

/-- Settles O47: a step issues nothing, or the events of one command, and keeps the parameters they are judged by. -/
theorem everyStepKeepsAddressMap : Obligations.EveryStepKeepsAddressMap := by
  intro s t hs h
  rcases step_keeps_or_execs h with ⟨hcfg, hhist⟩ | ⟨i, ms, hexec⟩
  · rwa [hcfg, hhist]
  · obtain ⟨hcfg, -⟩ := exec_cfg_history hexec
    obtain ⟨evs, hhist, -, -, hok⟩ := commandsIssueOnlyTheirOperations _ _ _ hexec
    intro e he
    rw [hcfg]
    rw [hhist] at he
    exact (List.mem_append.1 he).elim (hs e) fun hnew => ⟨i, hok e hnew⟩

/-! ## A responsive transport (R41) -/

/-- The part comes to its end, and the transport is responsive still. -/
def Run.Completes {α : Type} (r : Run α) : Prop := ∃ a w, r = .done a w ∧ Responsive w.state

theorem Trace.responsive {w w' : Work} {evs : List Event} (ht : Trace w w' evs) (h : Responsive w.state) :
    Responsive w'.state := by
  rw [Responsive, ht.bus]
  exact busAfter_responsive _ evs h

section
variable {α β : Type} {w : Work}

theorem Run.Completes.done (a : α) (h : Responsive w.state) : (Run.done a w).Completes := ⟨a, w, rfl, h⟩

/-- Two parts, one after another (R35). -/
theorem Run.Completes.andThen {r : Run α} {k : α → Work → Run β} (hr : r.Completes)
    (hk : ∀ a w1, Responsive w1.state → (k a w1).Completes) : (r.andThen k).Completes := by
  obtain ⟨a, w1, rfl, h1⟩ := hr
  exact hk a w1 h1

variable (h : Responsive w.state)
include h

theorem memRead_completes (dev : DevAddr) (reg : RegOffset) (n : Nat) : (memRead w dev reg n).Completes := by
  rcases memRead_trace w dev reg n with hs | ⟨b, st, w', hd, ht, -⟩
  · exact absurd hs (memRead_ne_stuck h dev reg n)
  · exact ⟨_, w', hd, ht.responsive h⟩

theorem memWrite_completes (dev : DevAddr) (reg : RegOffset) (v : Byte) : (memWrite w dev reg v).Completes := by
  rcases memWrite_trace w dev reg v with hs | ⟨st, w', hd, ht, -⟩
  · exact absurd hs (memWrite_ne_stuck h dev reg v)
  · exact ⟨st, w', hd, ht.responsive h⟩

theorem memWriteAll_completes (dev : DevAddr) (l : List (RegOffset × Byte)) : (memWriteAll dev l w).Completes := by
  rcases memWriteAll_trace dev l w with ⟨sts, w', hd, -, ht, -⟩ | ⟨-, -, -, -, -, -, -, hs⟩
  · exact ⟨(), w', hd, ht.responsive h⟩
  · exact absurd hs h

theorem identityCheck_completes (dev : DevAddr) (reg : RegOffset) (expected : Byte) :
    (identityCheck w dev reg expected).Completes :=
  (memRead_completes h dev reg 1).andThen fun _ _ h1 => .done _ h1

theorem initEnvConfigure_completes : (initEnvConfigure w).Completes :=
  (memWrite_completes h _ _ _).andThen fun _ w1 h1 =>
    memWrite_completes ((waitMs_trace w1 Config.envResetDelay).responsive h1) _ _ _

theorem calLoad_completes : (calLoad w).Completes := by
  refine (memRead_completes h _ _ _).andThen fun rt w1 h1 => ?_
  cases rt.2 with
  | fail => exact .done _ h1
  | ok =>
    refine (memRead_completes h1 _ _ _).andThen fun rh w2 h2 => ?_
    cases rh.2 with
    | fail => exact .done _ h2
    | ok => exact .done _ h2

theorem commandBody_completes (i : Instr) : (commandBody i w).Completes := by
  cases i with
  | initAcc =>
    refine (identityCheck_completes h _ _ _).andThen fun isExpected w1 h1 => ?_
    cases isExpected with
    | false => exact .done _ h1
    | true => exact (memWrite_completes h1 _ _ _).andThen fun _ _ h2 => .done _ h2
  | initEnv =>
    refine (identityCheck_completes h _ _ _).andThen fun isExpected w1 h1 => ?_
    cases isExpected with
    | false => exact .done _ h1
    | true =>
      refine (initEnvConfigure_completes h1).andThen fun _ w2 h2 => (calLoad_completes h2).andThen fun ok w3 h3 => ?_
      cases ok with
      | false => exact .done _ h3
      | true => exact (memWriteAll_completes h3 _ _).andThen fun _ _ h4 => .done _ h4
  | loadCal => exact (calLoad_completes h).andThen fun _ _ h1 => .done _ h1
  | readAcc | readTemp | readHum => exact (memRead_completes h _ _ _).andThen fun _ _ h1 => .done _ h1
  | readPress =>
    refine (memRead_completes h _ _ _).andThen fun r w1 h1 => ?_
    cases compP (adc20 r.1) w1.state.env.tFine w1.state.env.coefs with
    | none => exact .done _ h1
    | some p => exact .done _ h1

end

/-- Settles O11: no part of a command is stuck, so its run comes to `endCommand`. -/
theorem responsiveTransportCompletes : Obligations.ResponsiveTransportCompletes := by
  intro i s h
  obtain ⟨v, w, hdone, hw⟩ := commandBody_completes (w := beginCommand s) h i
  exact ⟨endCommand v w, by rw [exec_eq_runCommand, runCommand, hdone], rfl, hw⟩

/-! ## A silent transport (R41, log 6) -/

theorem memRead_of_silent {w : Work} {rest : List Answer} (h : w.state.bus.answers = .silent :: rest) (dev : DevAddr)
    (reg : RegOffset) (n : Nat) : memRead w dev reg n = .stuck w := by
  simp [memRead, readReply, nextAnswer_of_cons h]

/-- Every command begins with a read, in which a silent transport keeps it. -/
theorem commandBody_of_silent {w : Work} {rest : List Answer} (h : w.state.bus.answers = .silent :: rest) (i : Instr) :
    commandBody i w = .stuck w := by
  have hread := memRead_of_silent h
  cases i with
  | initAcc => simp [commandBody, initAccBody, identityCheck, hread]
  | readAcc => simp [commandBody, readAccBody, hread]
  | initEnv => simp [commandBody, initEnvBody, identityCheck, hread]
  | loadCal => simp [commandBody, loadCalBody, calLoad, hread]
  | readTemp => simp [commandBody, readTempBody, hread]
  | readPress => simp [commandBody, readPressBody, hread]
  | readHum => simp [commandBody, readHumBody, hread]

/-- Settles O10: the run is stuck where it began, which is BUSY and otherwise as before. -/
theorem unansweredOperationLeavesEngineStuck : Obligations.UnansweredOperationLeavesEngineStuck := by
  intro i s rest hwf h
  have hstuck : commandBody i (beginCommand s) = .stuck (beginCommand s) := commandBody_of_silent h i
  refine ⟨?_, step_of_busy hwf rfl⟩
  rw [exec_eq_runCommand, runCommand, hstuck]
  rfl

end Sys2Proof.Machine
end

section
/-! PROOFS. Encoding (spec/30_encoding.md): the command words and what a write of one does (R42 to R46), and how the bytes of
a sample become its integer (R47 to R49). -/

namespace Sys2Proof

/-! ## Command words -/

theorem mem_allInstrs (i : Instr) : i ∈ allInstrs := by
  cases i <;> decide

/-- The table of R43 lists each command beside its encoded word. -/
theorem commandWords_eq_map : Claims.commandWords = allInstrs.map fun i => (encode i, i) := by
  decide

theorem mem_commandWords_iff {w : Byte} {i : Instr} : (w, i) ∈ Claims.commandWords ↔ w = encode i := by
  simp [commandWords_eq_map, mem_allInstrs, eq_comm]

theorem decode_encode (i : Instr) : decode (encode i) = .command i := by
  cases i <;> decide

/-- Decoder and encoder are inverse to each other (R43). -/
theorem decode_eq_command_iff {w : Byte} {i : Instr} : decode w = .command i ↔ w = encode i :=
  ⟨eq_encode_of_decode, fun h => h ▸ decode_encode i⟩

/-- A rejected word is kept as the reason of its rejection (R44). -/
theorem eq_of_decode_eq_illegal {w v : Byte} (h : decode w = .illegal v) : v = w := by
  simp only [decode] at h
  split at h
  · cases h
  · injection h with h
    exact h.symm

theorem decode_command_or_illegal (w : Byte) : (∃ i, decode w = .command i) ∨ decode w = .illegal w := by
  cases h : decode w with
  | command i => exact .inl ⟨i, rfl⟩
  | illegal v => rw [eq_of_decode_eq_illegal h]; exact .inr rfl

/-- The rejected words are those outside the table (R44). -/
theorem decode_eq_illegal_iff {w : Byte} : decode w = .illegal w ↔ w ∉ Claims.commandWords.map Prod.fst := by
  have hmem : w ∈ Claims.commandWords.map Prod.fst ↔ ∃ i, decode w = .command i := by
    simp [decode_eq_command_iff, mem_commandWords_iff]
  rw [hmem]
  rcases decode_command_or_illegal w with ⟨i, hi⟩ | hill
  · simp [hi]
  · simp [hill]

/-! ## The ranges of the samples (R48, R49) -/

theorem Claims.adc20_lt (b : List Byte) : Claims.adc20 b < 2 ^ 20 := by
  unfold Claims.adc20
  omega

theorem Claims.adcH_lt (b : List Byte) : Claims.adcH b < 2 ^ 16 := by
  unfold Claims.adcH
  omega

end Sys2Proof

namespace Sys2Proof.Machine

/-- Settles O1: the table pairs each command with its word, which the decoder inverts. -/
theorem sevenWordsAreTheCommands : Obligations.SevenWordsAreTheCommands := fun _ _ =>
  decode_eq_command_iff.trans mem_commandWords_iff.symm

/-- Settles O2: of the 256 words the seven of the table are legal, and the others are the 249 that are left. -/
theorem decoderIsTotal : Obligations.DecoderIsTotal := by
  have hlegal : ((List.range 256).filter fun k =>
      decode (BitVec.ofNat 8 k) != .illegal (BitVec.ofNat 8 k)).length = 7 := by
    have hpred (k : Nat) : (decode (BitVec.ofNat 8 k) != .illegal (BitVec.ofNat 8 k)) =
        decide (BitVec.ofNat 8 k ∈ Claims.commandWords.map Prod.fst) := by
      rw [Bool.eq_iff_iff, bne_iff_ne, ne_eq, decode_eq_illegal_iff, not_not, decide_eq_true_iff]
    simp only [hpred]
    decide
  have hsplit := List.length_eq_length_filter_add (l := List.range 256) fun k =>
    decode (BitVec.ofNat 8 k) == .illegal (BitVec.ofNat 8 k)
  simp only [List.length_range] at hsplit
  exact ⟨decode_command_or_illegal, by simp only [bne] at hlegal; omega, hlegal⟩

/-- Settles O3: no command has a field that could be ill formed, and decoder and encoder are inverse. -/
theorem decodeInvertsEncode : Obligations.DecodeInvertsEncode := fun i =>
  ⟨by cases i <;> rfl, decode_encode i, fun _ => eq_encode_of_decode⟩

/-! ## The write of a word to `CMD` (R46) -/

/-- An IDLE engine issues the word that the host writes to `CMD`, with the move taken. -/
theorem step_of_write_cmd {s : State} {w : Byte} {ms : List HostMove} (hwf : s.cfg.wf = true) (hidle : s.activity = .idle)
    (hp : s.host.pending = .write 0x00 w :: ms) : step s = issue w (s.setPending ms) := by
  rw [step_of_idle hwf hidle hp, hostMove, if_pos rfl]

/-- Settles O4: the word written is issued, and issued as the command it decodes to. -/
theorem stepRunsDecodedCommand : Obligations.StepRunsDecodedCommand := by
  intro s w i ms hwf hidle hp hdec
  rw [step_of_write_cmd hwf hidle hp, issue_of_command hdec]
  rfl

/-- Settles O5: a word outside the table is issued as an illegal one, which changes `RESULT` alone. -/
theorem illegalWordSetsOnlyResult : Obligations.IllegalWordSetsOnlyResult := by
  refine ⟨fun w => decode_eq_illegal_iff.2, fun s w ms hwf hidle hp hnot => ?_⟩
  rw [step_of_write_cmd hwf hidle hp, issue_of_illegal (decode_eq_illegal_iff.2 hnot),
    illegalCommand_of_idle (s := s.setPending ms) hidle]
  rfl

/-! ## Operand assembly -/

/-- Bits shifted left by `k` do not overlap a value below 2^k, so `|` is `+` (R48). -/
theorem toNat_shlU_or {n k : Nat} {a b : BitVec n} (ha : a.toNat * 2 ^ k < 2 ^ n) (hb : b.toNat < 2 ^ k) :
    (shlU a k ||| b).toNat = a.toNat * 2 ^ k + b.toNat := by
  rw [BitVec.toNat_or, toNat_shlU, Nat.mod_eq_of_lt ha, ← Nat.shiftLeft_eq, Nat.shiftLeft_add_eq_or_of_lt hb]

theorem toNat_pair16 (hi lo : Byte) : (pair16 hi lo).toNat = hi.toNat * 256 + lo.toNat := by
  have hhi : (zext 16 hi).toNat = hi.toNat := toNat_zext (by decide) hi
  have hlo : (zext 16 lo).toNat = lo.toNat := toNat_zext (by decide) lo
  rw [pair16, toNat_shlU_or (by omega) (by omega), hhi, hlo]
  rfl

/-- Axis `k` is a pair of bytes, low byte first (R47). -/
theorem toNat_accRaw (b : List Byte) (k : Nat) : (accRaw b k).toNat = Claims.field16 b k :=
  toNat_pair16 _ _

theorem toNat_zext32_byte (v : Byte) : (zext 32 v).toNat = v.toNat := toNat_zext (by decide) v

/-- The three terms of a 20-bit sample do not overlap (R48). -/
theorem toNat_adc20 (b : List Byte) : (adc20 b).toNat = Claims.adc20 b := by
  have h0 := toNat_zext32_byte (byteAt b 0)
  have h1 := toNat_zext32_byte (byteAt b 1)
  have h2 : (srl (zext 32 (byteAt b 2)) 4).toNat = (byteAt b 2).toNat / 2 ^ 4 := by
    rw [toNat_srl, toNat_zext32_byte]
  have h12 : (shlU (zext 32 (byteAt b 1)) 4 ||| srl (zext 32 (byteAt b 2)) 4).toNat =
      (byteAt b 1).toNat * 2 ^ 4 + (byteAt b 2).toNat / 2 ^ 4 := by
    rw [toNat_shlU_or (by omega) (by omega), h1, h2]
  rw [adc20, BitVec.or_assoc, toNat_shlU_or (by omega) (by omega), h0, h12, ← Nat.add_assoc]
  rfl

/-- A humidity sample is a pair of bytes, high byte first (R49). -/
theorem toNat_adcH (b : List Byte) : (adcH b).toNat = Claims.adcH b := by
  have h0 := toNat_zext32_byte (byteAt b 0)
  have h1 := toNat_zext32_byte (byteAt b 1)
  rw [adcH, toNat_shlU_or (by omega) (by omega), h0, h1]
  rfl

/-- `as_sN` reads a pattern as two's complement (R56). -/
theorem toInt_eq_asSigned {n : Nat} (hn : 0 < n) (a : BitVec n) : a.toInt = Claims.asSigned n a.toNat := by
  have hp : 2 ^ n = 2 * 2 ^ (n - 1) := by rw [← pow_succ', Nat.sub_add_cancel hn]
  have hsign : 2 * a.toNat < 2 ^ n ↔ a.toNat < 2 ^ (n - 1) := by omega
  simp only [BitVec.toInt_eq_toNat_cond, Claims.asSigned, hsign]

/-- An acceleration sample is read as signed (R47). -/
theorem toInt_accRaw (b : List Byte) (k : Nat) : (accRaw b k).toInt = Claims.accSample b k := by
  rw [toInt_eq_asSigned (by decide), toNat_accRaw, Claims.accSample]

/-- A 20-bit sample held as an `s32` is not negative (R48). -/
theorem toInt_adc20 (b : List Byte) : (adc20 b).toInt = Claims.adc20 b := by
  have hlt := Claims.adc20_lt b
  rw [BitVec.toInt_eq_toNat_of_lt (by rw [toNat_adc20]; omega), toNat_adc20]

/-- A humidity sample held as an `s32` is not negative (R49). -/
theorem toInt_adcH (b : List Byte) : (adcH b).toInt = Claims.adcH b := by
  have hlt := Claims.adcH_lt b
  rw [BitVec.toInt_eq_toNat_of_lt (by rw [toNat_adcH]; omega), toNat_adcH]

/-- Settles O17: each axis is its pair of the six bytes. -/
theorem accelerationSampleFormat : Obligations.AccelerationSampleFormat := fun _ _ _ _ _ _ =>
  ⟨toInt_accRaw _ 0, toInt_accRaw _ 1, toInt_accRaw _ 2⟩

/-- Settles O18: the sample is the sum of the three terms, which has 20 bits. -/
theorem temperaturePressureSampleFormat : Obligations.TemperaturePressureSampleFormat := by
  intro b0 b1 b2
  have hlt := Claims.adc20_lt [b0, b1, b2]
  have hval := toInt_adc20 [b0, b1, b2]
  exact ⟨hval, by omega, by omega⟩

/-- Settles O19: the sample is the pair of its two bytes, which has 16 bits. -/
theorem humiditySampleFormat : Obligations.HumiditySampleFormat := by
  intro b0 b1
  have hlt := Claims.adcH_lt [b0, b1]
  have hval := toInt_adcH [b0, b1]
  exact ⟨hval, by omega, by omega⟩

end Sys2Proof.Machine
end

section
/-! PROOFS. Arithmetic (spec/40_arithmetic.md): the integer operators, their width conversions and the division (R53 to
R57). -/

namespace Sys2Proof

/-- `wrap_sN` is the balanced residue modulo 2^N, in which the operators' laws are stated (R53). -/
theorem Claims.wrap_eq_bmod {n : Nat} (hn : 0 < n) (z : Int) : Claims.wrap n z = z.bmod (2 ^ n) := by
  have hp : 2 ^ n = 2 * 2 ^ (n - 1) := by rw [← pow_succ', Nat.sub_add_cancel hn]
  have hhalf : (2 ^ n + 1) / 2 = 2 ^ (n - 1) := by omega
  rw [Int.bmod_def, Claims.wrap]
  norm_cast
  rw [hhalf]

/-- The quotient of R57, by signs and magnitudes, is the library's truncated one. -/
theorem Claims.quotient_eq_tdiv (a b : Int) : Claims.quotient a b = a.tdiv b := by
  have hleft (x y : Int) : (a.sign * x).tdiv y = a.sign * x.tdiv y := by
    obtain h | h | h := Int.sign_trichotomy a <;> simp [h]
  have hright (x y : Int) : x.tdiv (b.sign * y) = b.sign * x.tdiv y := by
    obtain h | h | h := Int.sign_trichotomy b <;> simp [h]
  calc Claims.quotient a b
      = a.sign * (b.sign * (a.natAbs : Int).tdiv b.natAbs) := mul_assoc _ _ _
    _ = (a.sign * a.natAbs).tdiv (b.sign * b.natAbs) := by rw [hleft, hright]
    _ = a.tdiv b := by rw [Int.sign_mul_natAbs, Int.sign_mul_natAbs]

end Sys2Proof

namespace Sys2Proof.Machine

/-- Settles O13: each operator is `wrap_sN` of the exact result. -/
theorem wrapAroundArithmetic : Obligations.WrapAroundArithmetic := by
  intro n a b hn
  simp only [Claims.wrap_eq_bmod hn]
  exact ⟨toInt_addS a b, toInt_subS a b, toInt_mulS a b⟩

/-- Settles O14: the left shifts wrap a product by 2^k, the right shifts are quotients by it. -/
theorem shiftsFloorAndWrap : Obligations.ShiftsFloorAndWrap := by
  intro n k a hk
  refine ⟨?_, ?_, toNat_shlU a k, toNat_srl a k⟩
  · rw [toInt_shlS, Claims.wrap_eq_bmod (by omega)]
  · rw [toInt_sra, Int.fdiv_eq_ediv_of_nonneg _ (by positivity)]

/-- `as_uN` reads a signed value as its pattern (R56). -/
theorem toNat_eq_of_toInt {m : Nat} (a : BitVec m) :
    (a.toNat : Int) = if 0 ≤ a.toInt then a.toInt else a.toInt + 2 ^ m := by
  have hlt : (a.toNat : Int) < 2 ^ m := by exact_mod_cast a.isLt
  rw [BitVec.toInt_eq_toNat_cond]
  push_cast
  split <;> omega

/-- Settles O15, one conversion after another. -/
theorem widthConversions : Obligations.WidthConversions := fun _ n a hm =>
  ⟨fun h => toNat_zext h a, fun h => toInt_zext h a, fun h => toInt_sext h hm a, toNat_trunc n a,
    toInt_eq_asSigned hm a, toNat_eq_of_toInt a⟩

/-- No quotient of two 64-bit integers passes the upper end of the range but that of -2^63 by -1: any divisor other than
1 and -1 at least halves the magnitude. -/
theorem tdiv_lt_of_not_overflow {a b : Int} (hlo : -9223372036854775808 ≤ a) (hhi : a < 9223372036854775808)
    (h : ¬(a = -9223372036854775808 ∧ b = -1)) : a.tdiv b < 9223372036854775808 := by
  obtain rfl | hpos := eq_or_ne b 1
  · rwa [Int.tdiv_one]
  obtain rfl | hneg := eq_or_ne b (-1)
  · rw [Int.tdiv_neg, Int.tdiv_one]
    omega
  obtain rfl | hzero := eq_or_ne b 0
  · simp
  have hmag : (a.tdiv b).natAbs = a.natAbs / b.natAbs := Int.natAbs_tdiv a b
  have hhalf : a.natAbs / b.natAbs ≤ a.natAbs / 2 := Nat.div_le_div_left (by omega) (by decide)
  omega

/-- Settles O16: the truncated quotient is in range, so nothing wraps, but for -2^63 by -1. -/
theorem divisionTruncatesTowardZero : Obligations.DivisionTruncatesTowardZero := by
  intro a b _
  rw [toInt_divS]
  constructor
  · rintro ⟨ha, hb⟩
    rw [ha, hb]
    decide
  · intro hover
    have hlo := BitVec.le_toInt a
    have hhi := BitVec.toInt_lt (x := a)
    have hmag := Int.natAbs_tdiv_le_natAbs a.toInt b.toInt
    have hlt := tdiv_lt_of_not_overflow hlo hhi hover
    rw [Int.bmod_eq_of_le_mul_two (by omega) (by omega), ← Claims.quotient_eq_tdiv, Claims.quotient]

end Sys2Proof.Machine
end

section
/-! PROOFS. The default output conversion (spec/40_arithmetic.md R62) as a function on the rationals: what the model's
exponent and significand are, the rational they round to, and how a binary32 pattern holds it. -/

namespace Sys2Proof.Machine

/-! ## Nearest integer and exponent -/

/-- `n` is the integer nearest to `r`, the even one of two that are equally near. -/
def IsNearestEven (r : Rat) (n : Nat) : Prop := |r - n| ≤ 1 / 2 ∧ (|r - n| = 1 / 2 → Even n)

theorem isNearestEven_natCast (n : Nat) : IsNearestEven n n := by simp [IsNearestEven]

/-- Rounding to nearest, ties to even, is monotone: two neighbours are never both even. -/
theorem IsNearestEven.mono {r r' : Rat} {n n' : Nat} (h : IsNearestEven r n) (h' : IsNearestEven r' n') (hle : r ≤ r') :
    n ≤ n' := by
  by_contra! hlt
  obtain ⟨hnear, heven⟩ := h
  obtain ⟨hnear', heven'⟩ := h'
  have hsucc : (n' : Rat) + 1 ≤ n := by exact_mod_cast hlt
  have hlo := abs_le.1 hnear
  have hhi := abs_le.1 hnear'
  have hmid : r - n = -(1 / 2) := by linarith
  have hmid' : r' - n' = 1 / 2 := by linarith
  have hn : n = n' + 1 := by
    have : (n : Rat) = n' + 1 := by linarith
    exact_mod_cast this
  have he : Even n := heven (by rw [hmid]; norm_num)
  have he' : Even n' := heven' (by rw [hmid']; norm_num)
  rw [hn, Nat.even_add_one] at he
  exact he he'

theorem IsNearestEven.eq_of_natCast {n m : Nat} (h : IsNearestEven (m : Rat) n) : n = m :=
  le_antisymm (h.mono (isNearestEven_natCast m) le_rfl) ((isNearestEven_natCast m).mono h le_rfl)

theorem isNearestEven_of_lt {r : Rat} {n : Nat} (h : |r - n| < 1 / 2) : IsNearestEven r n :=
  ⟨h.le, fun h' => absurd h' h.ne⟩

/-- `nearestEven` is what its name says, by the remainder's place below, above or at half of the divisor. -/
theorem isNearestEven_nearestEven (x : Nat) {y : Nat} (hy : 0 < y) : IsNearestEven ((x : Rat) / y) (nearestEven x y) := by
  have hy' : (0 : Rat) < y := by exact_mod_cast hy
  have hnonneg : (0 : Rat) ≤ ((x % y : Nat) : Rat) / y := by positivity
  have hlt_one : ((x % y : Nat) : Rat) / y < 1 := (div_lt_one hy').2 (by exact_mod_cast Nat.mod_lt x hy)
  have hdiv : (x : Rat) / y = (x / y : Nat) + ((x % y : Nat) : Rat) / y := by
    field_simp
    exact_mod_cast (Nat.div_add_mod x y).symm
  rw [nearestEven, hdiv]
  split_ifs with hbelow habove
  · have hfrac : ((x % y : Nat) : Rat) / y < 1 / 2 := by
      rw [div_lt_div_iff₀ hy' two_pos]
      exact_mod_cast (by omega : x % y * 2 < 1 * y)
    exact isNearestEven_of_lt (abs_lt.2 ⟨by linarith, by linarith⟩)
  · have hfrac : 1 / 2 < ((x % y : Nat) : Rat) / y := by
      rw [div_lt_div_iff₀ two_pos hy']
      exact_mod_cast (by omega : 1 * y < x % y * 2)
    refine isNearestEven_of_lt (abs_lt.2 ⟨?_, ?_⟩) <;> push_cast <;> linarith
  · have hfrac : ((x % y : Nat) : Rat) / y = 1 / 2 := by
      rw [div_eq_div_iff hy'.ne' two_ne_zero]
      exact_mod_cast (by omega : x % y * 2 = 1 * y)
    rw [hfrac]
    obtain h | h := Nat.mod_two_eq_zero_or_one (x / y)
    · rw [h]
      exact ⟨by norm_num, fun _ => Nat.even_iff.2 h⟩
    · rw [h]
      exact ⟨by norm_num, fun _ => (Nat.odd_iff.2 h).add_one⟩

/-- The comparison of `powLe` is that of the rationals. -/
theorem powLe_eq_true_iff (e : Int) (a : Nat) {d : Nat} (hd : 0 < d) :
    powLe e a d = true ↔ (2 : Rat) ^ e ≤ (a : Rat) / d := by
  have hd' : (0 : Rat) < d := by exact_mod_cast hd
  rw [powLe, decide_eq_true_iff, le_div_iff₀ hd']
  obtain ⟨n, rfl | rfl⟩ := e.eq_nat_or_neg
  · simp only [Int.toNat_natCast, Int.toNat_neg_natCast, pow_zero, mul_one, zpow_natCast]
    norm_cast
  · simp only [Int.toNat_natCast, Int.toNat_neg_natCast, pow_zero, one_mul, neg_neg, zpow_neg, zpow_natCast]
    rw [inv_mul_le_iff₀ (by positivity), mul_comm]
    norm_cast

/-- The exponent of the power of two at or below a rational. -/
theorem log_two_eq_of_le_of_lt {q : Rat} {e : Int} (hlo : (2 : Rat) ^ e ≤ q) (hhi : q < 2 ^ (e + 1)) :
    Int.log 2 q = e := by
  have hq : 0 < q := lt_of_lt_of_le (by positivity) hlo
  have hle : e ≤ Int.log 2 q := (Int.zpow_le_iff_le_log (b := 2) (by decide) hq).1 (by exact_mod_cast hlo)
  have hlt : Int.log 2 q < e + 1 := (Int.lt_zpow_iff_log_lt (b := 2) (by decide) hq).1 (by exact_mod_cast hhi)
  omega

/-- The bit lengths of numerator and denominator give the exponent up to one, which `powLe` decides. -/
theorem ratioLog2_eq_log {a d : Nat} (ha : 0 < a) (hd : 0 < d) : ratioLog2 a d = Int.log 2 ((a : Rat) / d) := by
  have hd' : (0 : Rat) < d := by exact_mod_cast hd
  have hpow (n : Nat) (hn : 0 < n) : (2 : Rat) ^ (Nat.log2 n : Int) ≤ n ∧ (n : Rat) < 2 ^ ((Nat.log2 n : Int) + 1) :=
    ⟨by exact_mod_cast Nat.log2_self_le hn.ne', by exact_mod_cast Nat.lt_log2_self⟩
  obtain ⟨halo, hahi⟩ := hpow a ha
  obtain ⟨hdlo, hdhi⟩ := hpow d hd
  have hlo : (2 : Rat) ^ ((Nat.log2 a : Int) - Nat.log2 d - 1) ≤ (a : Rat) / d := by
    rw [le_div_iff₀ hd']
    calc (2 : Rat) ^ ((Nat.log2 a : Int) - Nat.log2 d - 1) * d
        ≤ 2 ^ ((Nat.log2 a : Int) - Nat.log2 d - 1) * 2 ^ ((Nat.log2 d : Int) + 1) := by gcongr
      _ = 2 ^ (Nat.log2 a : Int) := by rw [← zpow_add₀ two_ne_zero]; congr 1; ring
      _ ≤ a := halo
  have hhi : (a : Rat) / d < 2 ^ ((Nat.log2 a : Int) - Nat.log2 d + 1) := by
    rw [div_lt_iff₀ hd']
    calc (a : Rat) < 2 ^ ((Nat.log2 a : Int) + 1) := hahi
      _ = 2 ^ ((Nat.log2 a : Int) - Nat.log2 d + 1) * 2 ^ (Nat.log2 d : Int) := by
        rw [← zpow_add₀ two_ne_zero]; congr 1; ring
      _ ≤ 2 ^ ((Nat.log2 a : Int) - Nat.log2 d + 1) * d := by gcongr
  rw [ratioLog2]
  split_ifs with h
  · exact (log_two_eq_of_le_of_lt ((powLe_eq_true_iff _ a hd).1 h) hhi).symm
  · rw [powLe_eq_true_iff _ a hd, not_le] at h
    exact (log_two_eq_of_le_of_lt hlo (by rwa [sub_add_cancel])).symm

/-! ## Rounding in the format without its largest exponent -/

/-- The exponent of the binade that a rational is rounded in: that of its magnitude, not below the subnormals'. -/
def binade32 (q : Rat) : Int := max (Int.log 2 |q|) (-126)

/-- The significand that a rational is rounded to. -/
def significand32 (q : Rat) : Nat := significand (binade32 q) q.num.natAbs q.den

/-- The magnitude that a rational is rounded to, with no bound on the exponent. -/
def roundAbs32 (q : Rat) : Rat := significand32 q * 2 ^ (binade32 q - 23)

/-- The rational rounded to binary32, with no bound on the exponent. -/
def round32 (q : Rat) : Rat := if q < 0 then -roundAbs32 q else roundAbs32 q

theorem neg_126_le_binade32 (q : Rat) : -126 ≤ binade32 q := le_max_right _ _

theorem abs_mkRat (z : Int) (d : Nat) : |mkRat z d| = (z.natAbs : Rat) / d := by
  rw [Rat.mkRat_eq_div, abs_div, Nat.cast_natAbs, Int.cast_abs, Nat.abs_cast]

theorem abs_eq_natAbs_div_den (q : Rat) : |q| = (q.num.natAbs : Rat) / q.den := by
  rw [← abs_mkRat, Rat.mkRat_self]

theorem binade_eq_binade32 {q : Rat} (h : q ≠ 0) : binade q.num.natAbs q.den = binade32 q := by
  rw [binade, binade32, abs_eq_natAbs_div_den, ratioLog2_eq_log (by simpa [Nat.pos_iff_ne_zero] using h) q.den_pos]

/-- The two powers of two by which `significand` scales its fraction are one power of either sign. -/
theorem isNearestEven_significand (e : Int) (a : Nat) {d : Nat} (hd : 0 < d) :
    IsNearestEven ((a : Rat) / d * 2 ^ (23 - e)) (significand e a d) := by
  have hscale : (a : Rat) / d * 2 ^ (23 - e) =
      ((a * 2 ^ (23 - e).toNat : Nat) : Rat) / ((d * 2 ^ (e - 23).toNat : Nat) : Rat) := by
    obtain ⟨n, hn | hn⟩ := (23 - e).eq_nat_or_neg
    · rw [show (e - 23).toNat = 0 by omega, hn]
      push_cast
      rw [zpow_natCast, Int.toNat_natCast, mul_one, div_mul_eq_mul_div]
    · rw [show (23 - e).toNat = 0 by omega, show e - 23 = n by omega, hn]
      push_cast
      rw [Int.toNat_natCast, zpow_neg, zpow_natCast, mul_one, ← div_eq_mul_inv, div_div]
  rw [hscale]
  exact isNearestEven_nearestEven _ (by positivity)

/-- The significand is the magnitude in units of the last place of the binade, rounded. -/
theorem isNearestEven_significand32 (q : Rat) : IsNearestEven (|q| * 2 ^ (23 - binade32 q)) (significand32 q) := by
  rw [abs_eq_natAbs_div_den]
  exact isNearestEven_significand _ _ q.den_pos

theorem abs_lt_two_zpow_binade32 (q : Rat) : |q| < 2 ^ (binade32 q + 1) := by
  have hlog : |q| < 2 ^ (Int.log 2 |q| + 1) := by exact_mod_cast Int.lt_zpow_succ_log_self (b := 2) (by decide) |q|
  exact hlog.trans_le (zpow_le_zpow_right₀ one_le_two (by rw [binade32]; omega))

/-- Above the subnormals the binade's power of two is at or below the magnitude. -/
theorem two_zpow_binade32_le_abs {q : Rat} (hq : q ≠ 0) (h : -126 < binade32 q) : 2 ^ binade32 q ≤ |q| := by
  have hlog : binade32 q = Int.log 2 |q| := by rw [binade32] at *; omega
  rw [hlog]
  exact_mod_cast Int.zpow_log_le_self (b := 2) (by decide) (abs_pos.2 hq)

theorem significand32_le (q : Rat) : significand32 q ≤ 2 ^ 24 := by
  refine (isNearestEven_significand32 q).mono (isNearestEven_natCast _) ?_
  calc |q| * 2 ^ (23 - binade32 q) ≤ 2 ^ (binade32 q + 1) * 2 ^ (23 - binade32 q) := by
        gcongr; exact (abs_lt_two_zpow_binade32 q).le
    _ = ((2 ^ 24 : Nat) : Rat) := by rw [← zpow_add₀ two_ne_zero]; ring_nf; norm_num

theorem le_significand32 {q : Rat} (hq : q ≠ 0) (h : -126 < binade32 q) : 2 ^ 23 ≤ significand32 q := by
  refine (isNearestEven_natCast _).mono (isNearestEven_significand32 q) ?_
  calc ((2 ^ 23 : Nat) : Rat) = 2 ^ binade32 q * 2 ^ (23 - binade32 q) := by
        rw [← zpow_add₀ two_ne_zero]; ring_nf; norm_num
    _ ≤ |q| * 2 ^ (23 - binade32 q) := by gcongr; exact two_zpow_binade32_le_abs hq h

/-- A larger magnitude is not rounded to a smaller one: in one binade the significand is monotone, and the greatest of a
binade is the least of the next. -/
theorem roundAbs32_mono {p q : Rat} (hp : p ≠ 0) (h : |p| ≤ |q|) : roundAbs32 p ≤ roundAbs32 q := by
  have hq : q ≠ 0 := abs_pos.1 ((abs_pos.2 hp).trans_le h)
  have hbinade : binade32 p ≤ binade32 q := max_le_max_right _ (Int.log_mono_right (abs_pos.2 hp) h)
  obtain heq | hlt := hbinade.eq_or_lt
  · have hsig : significand32 p ≤ significand32 q := by
      refine (isNearestEven_significand32 p).mono (isNearestEven_significand32 q) ?_
      rw [heq]
      gcongr
    rw [roundAbs32, roundAbs32, heq]
    gcongr
  · have hhi : (significand32 p : Rat) ≤ 2 ^ 24 := by exact_mod_cast significand32_le p
    have hlo : (2 ^ 23 : Rat) ≤ significand32 q := by
      exact_mod_cast le_significand32 hq ((neg_126_le_binade32 p).trans_lt hlt)
    calc roundAbs32 p ≤ 2 ^ 24 * 2 ^ (binade32 p - 23) := by rw [roundAbs32]; gcongr
      _ = 2 ^ 23 * 2 ^ (binade32 p + 1 - 23) := by
        rw [show binade32 p + 1 - 23 = binade32 p - 23 + 1 by ring, zpow_add_one₀ two_ne_zero]; ring
      _ ≤ significand32 q * 2 ^ (binade32 q - 23) := by
        gcongr
        · norm_num
        · omega

theorem roundAbs32_nonneg (q : Rat) : 0 ≤ roundAbs32 q := by rw [roundAbs32]; positivity

/-- A magnitude with a whole number of units of the last place is not changed. -/
theorem significand32_eq_of_units {q : Rat} {n : Nat} (h : |q| = n * 2 ^ (binade32 q - 23)) : significand32 q = n := by
  have hunits : |q| * 2 ^ (23 - binade32 q) = n := by
    rw [h, mul_assoc, ← zpow_add₀ two_ne_zero]
    simp
  have hnear := isNearestEven_significand32 q
  rw [hunits] at hnear
  exact hnear.eq_of_natCast

@[simp] theorem roundAbs32_zero : roundAbs32 0 = 0 := by
  have h : significand32 0 = 0 := significand32_eq_of_units (by simp)
  rw [roundAbs32, h]
  simp

@[simp] theorem round32_zero : round32 0 = 0 := by rw [round32, if_neg (lt_irrefl 0), roundAbs32_zero]

/-- Rounding is monotone on all rationals. -/
theorem round32_mono {p q : Rat} (h : p ≤ q) : round32 p ≤ round32 q := by
  have hp0 := roundAbs32_nonneg p
  have hq0 := roundAbs32_nonneg q
  unfold round32
  split_ifs with hp hq hq
  · exact neg_le_neg (roundAbs32_mono hq.ne (abs_le_abs_of_nonpos hq.le h))
  · linarith
  · linarith
  · obtain rfl | hne := eq_or_ne p 0
    · rwa [roundAbs32_zero]
    · exact roundAbs32_mono hne (abs_le_abs_of_nonneg (not_lt.1 hp) h)

/-- The error of a rounding is that of the magnitudes. -/
theorem abs_round32_sub (q : Rat) : |round32 q - q| = |(roundAbs32 q - |q|)| := by
  unfold round32
  split_ifs with h
  · rw [abs_of_neg h, ← abs_neg]
    ring_nf
  · rw [abs_of_nonneg (not_lt.1 h)]

/-- Rounding moves a rational by at most half a unit of the last place. -/
theorem abs_round32_sub_le (q : Rat) : |round32 q - q| ≤ 2 ^ (binade32 q - 24) := by
  have hnear := (isNearestEven_significand32 q).1
  have hunits : roundAbs32 q - |q| = (significand32 q - |q| * 2 ^ (23 - binade32 q)) * 2 ^ (binade32 q - 23) := by
    rw [roundAbs32, sub_mul, mul_assoc, ← zpow_add₀ two_ne_zero]
    simp
  rw [abs_round32_sub, hunits, abs_mul, abs_sub_comm, abs_of_pos (by positivity : (0 : Rat) < 2 ^ (binade32 q - 23))]
  calc |(|q| * 2 ^ (23 - binade32 q) - significand32 q)| * 2 ^ (binade32 q - 23)
      ≤ 1 / 2 * 2 ^ (binade32 q - 23) := by gcongr
    _ = 2 ^ (binade32 q - 24) := by
      rw [show binade32 q - 23 = binade32 q - 24 + 1 by ring, zpow_add_one₀ two_ne_zero]; ring

/-- A rational of at most 24 significant bits, its last place not below the subnormals', is not changed. -/
theorem round32_eq_self {q : Rat} {m : Nat} {j : Int} (hm : m < 2 ^ 24) (hj : -149 ≤ j) (h : |q| = m * 2 ^ j) :
    round32 q = q := by
  obtain rfl | hq := eq_or_ne q 0
  · exact round32_zero
  have hunit : binade32 q - 23 ≤ j := by
    by_contra! hlt
    have hle := two_zpow_binade32_le_abs hq (by omega)
    have hbits : |q| < 2 ^ (j + 24) := by
      rw [h, zpow_add₀ two_ne_zero, mul_comm]
      gcongr
      exact_mod_cast hm
    exact absurd (hle.trans_lt hbits) (not_lt.2 (zpow_le_zpow_right₀ one_le_two (by omega)))
  obtain ⟨k, hk⟩ := Int.eq_ofNat_of_zero_le (sub_nonneg.2 hunit)
  have hwhole : |q| = ((m * 2 ^ k : Nat) : Rat) * 2 ^ (binade32 q - 23) := by
    rw [h, show j = k + (binade32 q - 23) by omega, zpow_add₀ two_ne_zero]
    push_cast
    rw [zpow_natCast]
    ring
  have hsig := significand32_eq_of_units hwhole
  have hround : roundAbs32 q = |q| := by rw [hwhole, roundAbs32, hsig]
  have hzero : |round32 q - q| = 0 := by rw [abs_round32_sub, hround, sub_self, abs_zero]
  exact sub_eq_zero.1 (abs_eq_zero.1 hzero)

/-- A significand of 24 bits, or a subnormal one, lies in the binade of its unit. -/
theorem binade32_of_parts {q : Rat} {m : Nat} {e : Int} (he : -126 ≤ e) (hm : m < 2 ^ 24)
    (hnormal : e = -126 ∨ 2 ^ 23 ≤ m) (hq : q ≠ 0) (h : |q| = m * 2 ^ (e - 23)) : binade32 q = e := by
  have hhi : |q| < 2 ^ (e + 1) := by
    calc |q| < 2 ^ 24 * 2 ^ (e - 23) := by rw [h]; gcongr; exact_mod_cast hm
      _ = 2 ^ (e + 1) := by
        rw [show e + 1 = 24 + (e - 23) by ring, zpow_add₀ two_ne_zero]
        norm_num
  obtain rfl | hlead := hnormal
  · have hlog : Int.log 2 |q| < -126 + 1 :=
      (Int.lt_zpow_iff_log_lt (b := 2) (by decide) (abs_pos.2 hq)).1 (by exact_mod_cast hhi)
    rw [binade32]
    omega
  · have hlo : 2 ^ e ≤ |q| := by
      calc (2 : Rat) ^ e = 2 ^ 23 * 2 ^ (e - 23) := by
            rw [show e = 23 + (e - 23) by ring, zpow_add₀ two_ne_zero]
            norm_num
        _ ≤ |q| := by rw [h]; gcongr; exact_mod_cast hlead
    rw [binade32, log_two_eq_of_le_of_lt hlo hhi]
    omega

/-! ## Binary32 patterns -/

/-- The sign bit of a pattern. -/
theorem getLsbD_sign (p : BitVec 32) : p.getLsbD 31 = decide (2 ^ 31 ≤ p.toNat) :=
  (BitVec.msb_eq_getLsbD_last p).symm.trans (BitVec.msb_eq_decide p)

/-- The exponent field of a pattern. -/
def expField (p : BitVec 32) : Nat := p.toNat % 2 ^ 31 / 2 ^ 23

/-- The exponent field of the binade that a pattern lies in: the subnormals share that of the least normal numbers. -/
def binadeField (p : BitVec 32) : Nat := max (expField p) 1

/-- The significand of a pattern, with the leading bit of a normal number. -/
def patternSignificand (p : BitVec 32) : Nat := p.toNat % 2 ^ 31 - (binadeField p - 1) * 2 ^ 23

/-- The magnitude of a finite pattern: its significand in units of the last place. -/
def patternMagnitude (p : BitVec 32) : Rat := patternSignificand p * 2 ^ ((binadeField p : Int) - 150)

theorem patternMagnitude_nonneg (p : BitVec 32) : 0 ≤ patternMagnitude p := by rw [patternMagnitude]; positivity

theorem toNat_extract_exp (p : BitVec 32) : (p.extractLsb' 23 8).toNat = expField p := by
  rw [BitVec.extractLsb'_toNat, Nat.shiftRight_eq_div_pow, expField]
  omega

theorem toNat_extract_frac (p : BitVec 32) : (p.extractLsb' 0 23).toNat = p.toNat % 2 ^ 23 := by
  rw [BitVec.extractLsb'_toNat, Nat.shiftRight_zero]

theorem isFinite32_iff (p : BitVec 32) : isFinite32 p = true ↔ p.toNat % 2 ^ 31 < 0x7F800000 := by
  rw [isFinite32, bne_iff_ne, ne_eq, ← BitVec.toNat_inj, toNat_extract_exp, expField]
  norm_num
  omega

/-- The ratio in which `value32` writes an integer number of units is that integer times the unit. -/
theorem exactRatio_units (z : Int) (k : Nat) :
    exactRatio (z * ((2 ^ (k - 150) : Nat) : Int)) (2 ^ (150 - k)) = z * 2 ^ ((k : Int) - 150) := by
  rw [exactRatio, Rat.mkRat_eq_div]
  obtain h | h := le_total k 150
  · rw [Nat.sub_eq_zero_of_le h, show (k : Int) - 150 = -((150 - k : Nat) : Int) by omega, zpow_neg, zpow_natCast,
      div_eq_mul_inv]
    push_cast
    rw [mul_one]
  · rw [Nat.sub_eq_zero_of_le h, show (k : Int) - 150 = ((k - 150 : Nat) : Int) by omega, zpow_natCast]
    push_cast
    rw [div_one]

/-- The number of a pattern by sign and magnitude. -/
theorem value32_eq (p : BitVec 32) :
    value32 p = (if p.getLsbD 31 then -1 else 1) * patternMagnitude p := by
  have hsig : patternSignificand p =
      if expField p = 0 then p.toNat % 2 ^ 23 else 2 ^ 23 + p.toNat % 2 ^ 23 := by
    rw [patternSignificand, binadeField, expField]
    split_ifs <;> omega
  have hexp : binadeField p = if expField p = 0 then 1 else expField p := by
    rw [binadeField]
    split_ifs <;> omega
  rw [value32, toNat_extract_exp, toNat_extract_frac, ← hsig, ← hexp, exactRatio_units, patternMagnitude]
  split_ifs <;> simp

/-- The magnitude bits of a pattern, by binade and significand. -/
theorem pattern_parts (p : BitVec 32) :
    p.toNat % 2 ^ 31 = (binadeField p - 1) * 2 ^ 23 + patternSignificand p ∧ 1 ≤ binadeField p ∧
      patternSignificand p < 2 ^ 24 ∧ (binadeField p = 1 ∨ 2 ^ 23 ≤ patternSignificand p) := by
  rw [patternSignificand, binadeField, expField]
  omega

/-- A binade and a significand that add up to a pattern's magnitude bits give its magnitude. The significand may have
carried into the next binade. -/
theorem patternMagnitude_of_parts {p : BitVec 32} {k s : Nat} (hp : p.toNat % 2 ^ 31 = k * 2 ^ 23 + s) (hs : s ≤ 2 ^ 24)
    (hnormal : k = 0 ∨ 2 ^ 23 ≤ s) : patternMagnitude p = s * 2 ^ ((k : Int) - 149) := by
  have hfield : (s < 2 ^ 24 ∧ binadeField p = k + 1 ∧ patternSignificand p = s) ∨
      (s = 2 ^ 24 ∧ binadeField p = k + 2 ∧ patternSignificand p = 2 ^ 23) := by
    rw [patternSignificand, binadeField, expField]
    omega
  obtain ⟨-, hk, hsig⟩ | ⟨rfl, hk, hsig⟩ := hfield
  · rw [patternMagnitude, hk, hsig]
    push_cast
    ring_nf
  · rw [patternMagnitude, hk, hsig]
    push_cast
    rw [show (k : Int) + 2 - 150 = k - 149 + 1 by ring, zpow_add_one₀ two_ne_zero]
    ring

theorem patternMagnitude_lt {p : BitVec 32} (hfin : isFinite32 p = true) : patternMagnitude p < 2 ^ 128 := by
  obtain ⟨hbits, hbinade, hsig, hnormal⟩ := pattern_parts p
  have hlt := (isFinite32_iff p).1 hfin
  calc patternMagnitude p < 2 ^ 24 * 2 ^ ((binadeField p : Int) - 150) := by
        rw [patternMagnitude]; gcongr; exact_mod_cast hsig
    _ ≤ 2 ^ 24 * 2 ^ (104 : Int) := by
      gcongr
      · norm_num
      · omega
    _ = 2 ^ 128 := by norm_num

theorem abs_value32 (p : BitVec 32) : |value32 p| = patternMagnitude p := by
  rw [value32_eq, abs_mul, abs_of_nonneg (patternMagnitude_nonneg p)]
  split_ifs <;> simp

/-- What a rounded rational becomes in the format: a magnitude of 2^128 or more is an infinity. -/
def boundedNumber (x : Rat) : OutNumber :=
  if x ≤ -2 ^ 128 then .minusInfinity else if 2 ^ 128 ≤ x then .plusInfinity else .number x

theorem boundedNumber_eq_number {x : Rat} (h : |x| < 2 ^ 128) : boundedNumber x = .number x := by
  obtain ⟨hlo, hhi⟩ := abs_lt.1 h
  rw [boundedNumber, if_neg (not_le.2 hlo), if_neg (not_le.2 hhi)]

theorem boundedNumber_eq_number_iff {x v : Rat} : boundedNumber x = .number v ↔ x = v ∧ |x| < 2 ^ 128 := by
  refine ⟨fun h => ?_, fun ⟨hx, hlt⟩ => hx ▸ boundedNumber_eq_number hlt⟩
  unfold boundedNumber at h
  split_ifs at h with hlo hhi
  exact ⟨OutNumber.number.inj h, abs_lt.2 ⟨not_le.1 hlo, not_le.1 hhi⟩⟩

theorem boundedNumber_mono {x y : Rat} (h : x ≤ y) : (boundedNumber x).le (boundedNumber y) = true := by
  obtain hx | hx := le_or_gt x (-2 ^ 128)
  · rw [boundedNumber, if_pos hx, boundedNumber]
    split_ifs <;> rfl
  obtain hy | hy := le_or_gt (2 ^ 128) y
  · rw [boundedNumber.eq_1 y, if_neg (not_le.2 (hx.trans_le h)), if_pos hy, boundedNumber, if_neg (not_le.2 hx)]
    split_ifs <;> rfl
  · rw [boundedNumber_eq_number (abs_lt.2 ⟨hx, h.trans_lt hy⟩), boundedNumber_eq_number (abs_lt.2 ⟨hx.trans_le h, hy⟩)]
    exact decide_eq_true h

theorem number32_of_infinite {p : BitVec 32} (h : p.toNat % 2 ^ 31 = 0x7F800000) :
    number32 p = if p.getLsbD 31 then .minusInfinity else .plusInfinity := by
  have hfin : ¬ isFinite32 p = true := by rw [isFinite32_iff]; omega
  have hfrac : p.extractLsb' 0 23 = 0#23 := by
    rw [← BitVec.toNat_inj, toNat_extract_frac, BitVec.toNat_ofNat]
    omega
  simp [number32, hfin, hfrac]

/-- A pattern whose magnitude bits are a binade and a significand stands for that number, or for an infinity. -/
theorem number32_of_parts {p : BitVec 32} {k s : Nat} (hp : p.toNat % 2 ^ 31 = k * 2 ^ 23 + s) (hk : k ≤ 253)
    (hs : s ≤ 2 ^ 24) (hnormal : k = 0 ∨ 2 ^ 23 ≤ s) :
    number32 p = boundedNumber ((if p.getLsbD 31 then -1 else 1) * (s * 2 ^ ((k : Int) - 149))) := by
  have hmag := patternMagnitude_of_parts hp hs hnormal
  obtain hfin | hinf := lt_or_eq_of_le (show k * 2 ^ 23 + s ≤ 0x7F800000 by omega)
  · have hfinite : isFinite32 p = true := (isFinite32_iff p).2 (hp ▸ hfin)
    rw [number32_of_finite hfinite, ← hmag, ← value32_eq,
      boundedNumber_eq_number ((abs_value32 p).trans_lt (patternMagnitude_lt hfinite))]
  · obtain ⟨rfl, rfl⟩ : k = 253 ∧ s = 2 ^ 24 := by omega
    rw [number32_of_infinite (hp.trans hinf)]
    split_ifs <;> norm_num [boundedNumber]

theorem binary32Magnitude_eq {q : Rat} (h : q ≠ 0) :
    binary32Magnitude q.num.natAbs q.den =
      if 127 < binade32 q then 0x7F800000 else (binade32 q + 126).toNat * 2 ^ 23 + significand32 q := by
  rw [binary32Magnitude, binade_eq_binade32 h, significand32]

theorem binary32Magnitude_le {q : Rat} (h : q ≠ 0) : binary32Magnitude q.num.natAbs q.den ≤ 0x7F800000 := by
  have hsig := significand32_le q
  rw [binary32Magnitude_eq h]
  split_ifs <;> omega

theorem toNat_froundBinary32 {q : Rat} (h : q ≠ 0) :
    (froundBinary32 q).toNat = (if q < 0 then 2 ^ 31 else 0) + binary32Magnitude q.num.natAbs q.den := by
  have hle := binary32Magnitude_le h
  rw [froundBinary32, if_neg (Rat.num_ne_zero.2 h)]
  simp only [Rat.num_neg]
  split_ifs <;> rw [BitVec.toNat_ofNat] <;> omega

theorem froundBinary32_zero : froundBinary32 0 = 0#32 := rfl

theorem getLsbD_sign_froundBinary32 {q : Rat} (h : q ≠ 0) : (froundBinary32 q).getLsbD 31 = decide (q < 0) := by
  have hle := binary32Magnitude_le h
  rw [getLsbD_sign, toNat_froundBinary32 h, decide_eq_decide]
  split_ifs with hneg
  · exact iff_of_true (by omega) hneg
  · exact iff_of_false (by omega) hneg

theorem toNat_froundBinary32_mod {q : Rat} (h : q ≠ 0) :
    (froundBinary32 q).toNat % 2 ^ 31 = binary32Magnitude q.num.natAbs q.den := by
  have hle := binary32Magnitude_le h
  rw [toNat_froundBinary32 h]
  split_ifs <;> omega

theorem round32_eq_sign_mul {q : Rat} (h : q ≠ 0) :
    round32 q = (if (froundBinary32 q).getLsbD 31 then -1 else 1) * roundAbs32 q := by
  simp only [getLsbD_sign_froundBinary32 h, decide_eq_true_eq, round32]
  split_ifs <;> ring

theorem two_pow_128_le_roundAbs32 {q : Rat} (hq : q ≠ 0) (h : 127 < binade32 q) : 2 ^ 128 ≤ roundAbs32 q := by
  have hsig : (2 ^ 23 : Rat) ≤ significand32 q := by exact_mod_cast le_significand32 hq (by omega)
  calc (2 ^ 128 : Rat) = 2 ^ 23 * 2 ^ (105 : Int) := by norm_num
    _ ≤ significand32 q * 2 ^ (binade32 q - 23) := by
      gcongr
      · norm_num
      · omega

/-- The default `fround` rounds the rational and bounds the result by the format's largest exponent. -/
theorem number32_froundBinary32 (q : Rat) : number32 (froundBinary32 q) = boundedNumber (round32 q) := by
  obtain rfl | hq := eq_or_ne q 0
  · rw [froundBinary32_zero, round32_zero]
    rfl
  have hbits := toNat_froundBinary32_mod hq
  have hlow := neg_126_le_binade32 q
  rw [binary32Magnitude_eq hq] at hbits
  rw [round32_eq_sign_mul hq]
  split_ifs at hbits with hbig
  · have hlarge := two_pow_128_le_roundAbs32 hq hbig
    rw [number32_of_infinite hbits]
    split_ifs
    · rw [boundedNumber, if_pos (by linarith)]
    · rw [boundedNumber, if_neg (by linarith), if_pos (by linarith)]
  · have hnormal : (binade32 q + 126).toNat = 0 ∨ 2 ^ 23 ≤ significand32 q := by
      obtain h | h := hlow.eq_or_lt
      · exact .inl (by omega)
      · exact .inr (le_significand32 hq h)
    have hexp : ((binade32 q + 126).toNat : Int) - 149 = binade32 q - 23 := by omega
    rw [number32_of_parts hbits (by omega) (significand32_le q) hnormal, hexp, roundAbs32]

theorem number32_eq_number_iff {p : BitVec 32} {v : Rat} :
    number32 p = .number v ↔ isFinite32 p = true ∧ value32 p = v := by
  unfold number32
  split_ifs <;> simp_all

/-- Where the rounded rational lies below 2^128 in magnitude, the default `fround` gives its pattern. -/
theorem froundBinary32_of_lt {q : Rat} (h : |round32 q| < 2 ^ 128) :
    isFinite32 (froundBinary32 q) = true ∧ value32 (froundBinary32 q) = round32 q := by
  rw [← number32_eq_number_iff, number32_froundBinary32, boundedNumber_eq_number h]

end Sys2Proof.Machine
end

section
/-! PROOFS. The properties P1 to P4 of `fround` (spec/40_arithmetic.md R62), what the decoders hand to it, and that HUM is
exact. -/

namespace Sys2Proof.Machine

/-! ## Zero, order and the format's own values -/

/-- Settles O56: P1, for the default by evaluation. -/
theorem froundOfZeroIsZero : Obligations.FroundOfZeroIsZero := by
  refine ⟨fun choice => ?_, rfl⟩
  cases choice with
  | binary32 => rfl
  | other k => exact numberOf_fround_other_zero k

/-- Settles O57: P2, for the default because both the rounding and the bound on the exponent are monotone. -/
theorem froundIsMonotone : Obligations.FroundIsMonotone := by
  intro choice p q h
  cases choice with
  | binary32 =>
    simp only [fround_binary32, numberOf_binary32, number32_froundBinary32]
    exact boundedNumber_mono (round32_mono h)
  | other k => exact numberOf_fround_other_mono k h

/-- Rounding keeps the number of every pattern. -/
theorem round32_value32 (p : BitVec 32) : round32 (value32 p) = value32 p := by
  obtain ⟨-, hbinade, hsig, -⟩ := pattern_parts p
  exact round32_eq_self hsig (by omega) (abs_value32 p)

theorem value32_neg_iff {p : BitVec 32} (h : value32 p ≠ 0) : value32 p < 0 ↔ 2 ^ 31 ≤ p.toNat := by
  have hpos : 0 < patternMagnitude p := abs_value32 p ▸ abs_pos.2 h
  rw [value32_eq, getLsbD_sign]
  simp only [decide_eq_true_eq]
  split_ifs with hsign
  · exact iff_of_true (by linarith) hsign
  · exact iff_of_false (by linarith) hsign

/-- The default `fround` gives back every finite pattern whose number is not 0. -/
theorem froundBinary32_value32 {p : BitVec 32} (hfin : isFinite32 p = true) (hv : value32 p ≠ 0) :
    froundBinary32 (value32 p) = p := by
  obtain ⟨hbits, hbinade, hsig, hnormal⟩ := pattern_parts p
  have hlt := (isFinite32_iff p).1 hfin
  have hunit : |value32 p| = patternSignificand p * 2 ^ (((binadeField p : Int) - 127) - 23) := by
    rw [abs_value32, patternMagnitude, sub_sub]
    rfl
  have he : binade32 (value32 p) = binadeField p - 127 :=
    binade32_of_parts (by omega) hsig (hnormal.imp_left fun h => by omega) hv hunit
  have hs : significand32 (value32 p) = patternSignificand p := significand32_eq_of_units (he ▸ hunit)
  apply BitVec.eq_of_toNat_eq
  rw [toNat_froundBinary32 hv, binary32Magnitude_eq hv, he, hs,
    if_neg (by omega : ¬ 127 < (binadeField p : Int) - 127)]
  simp only [value32_neg_iff hv]
  split_ifs <;> omega

/-- Only the two zeros stand for 0. -/
theorem eq_zero_of_value32_eq_zero {p : BitVec 32} (h : value32 p = 0) : p = 0#32 ∨ p = 0x80000000#32 := by
  obtain ⟨hbits, hbinade, -, hnormal⟩ := pattern_parts p
  have hsig : patternSignificand p = 0 := by
    have habs := abs_value32 p
    rw [h, abs_zero, patternMagnitude, eq_comm, mul_eq_zero, or_iff_left (by positivity)] at habs
    exact_mod_cast habs
  have hlt := p.isLt
  simp only [← BitVec.toNat_inj, BitVec.toNat_ofNat]
  omega

/-- Settles O58: P3, for the default because rounding keeps the number of a pattern, and a pattern other than the zeros is
given back by its binade and significand. -/
theorem froundIsExactOnItsValues : Obligations.FroundIsExactOnItsValues := by
  constructor
  · intro choice p q h
    cases choice with
    | binary32 =>
      simp only [fround_binary32, numberOf_binary32] at h ⊢
      obtain ⟨-, hvalue⟩ := number32_eq_number_iff.1 h
      rw [number32_froundBinary32, boundedNumber_eq_number_iff] at h
      have hround : round32 q = q := hvalue ▸ round32_value32 _
      rw [number32_froundBinary32, hround]
      exact boundedNumber_eq_number (h.1 ▸ h.2)
    | other k => exact numberOf_fround_other_exact k h
  · intro p hfin
    obtain hv | hv := eq_or_ne (value32 p) 0
    · rw [hv, froundBinary32_zero]
      exact ⟨rfl, fun hp => ((eq_zero_of_value32_eq_zero hv).resolve_right hp).symm⟩
    · have hp := froundBinary32_value32 hfin hv
      exact ⟨congrArg value32 hp, fun _ => hp⟩

/-! ## The engine's range and the error bound -/

/-- A rational `z / d` with `d` at most 1024 times `|z|` and `|z| / d` at most 2^31/100 is in the range of R62, unless it
is 0. -/
theorem mkRat_range {z : Int} {d : Nat} (hd : 0 < d) (hlo : z ≠ 0 → d ≤ 1024 * z.natAbs)
    (hhi : z.natAbs * 100 ≤ 2147483648 * d) :
    mkRat z d = 0 ∨ (mkRat 1 1024 ≤ |mkRat z d| ∧ |mkRat z d| ≤ mkRat 2147483648 100) := by
  obtain rfl | hz := eq_or_ne z 0
  · exact .inl (Rat.zero_mkRat d)
  have hd' : (0 : Rat) < d := by exact_mod_cast hd
  refine .inr ⟨?_, ?_⟩
  · rw [abs_mkRat, Rat.mkRat_eq_div, div_le_div_iff₀ (by norm_num) hd']
    have hlo' := hlo hz
    push_cast
    exact_mod_cast (by omega : 1 * d ≤ z.natAbs * 1024)
  · rw [abs_mkRat, Rat.mkRat_eq_div, div_le_div_iff₀ hd' (by norm_num)]
    push_cast
    exact_mod_cast hhi

/-- The range of R62: what the engine can produce is 0 or lies between 1/1024 and 2^31/100 in magnitude. -/
theorem engineProduces_range {q : Rat} (h : engineProduces q) :
    q = 0 ∨ (mkRat 1 1024 ≤ |q| ∧ |q| ≤ mkRat 2147483648 100) := by
  obtain ⟨z, ⟨hlo, hhi, rfl⟩ | ⟨hlo, hhi, rfl⟩ | ⟨hlo, hhi, rfl⟩ | ⟨hlo, hhi, rfl⟩⟩ := h <;>
    exact mkRat_range (by decide) (by omega) (by omega)

/-- `T_int` is an s32 shifted right by 8 (R75). -/
theorem toInt_compTInt_range (tf : BitVec 32) : -8388608 ≤ (compTInt tf).toInt ∧ (compTInt tf).toInt ≤ 8388607 := by
  have hlo := BitVec.le_toInt (addS (mulS tf 5#32) 128#32)
  have hhi := BitVec.toInt_lt (x := addS (mulS tf 5#32) 128#32)
  rw [compTInt, toInt_sra]
  omega

/-- `H_int` is a value clamped to 0 .. 419430400 and shifted right by 12 (R82, R83). -/
theorem toInt_compH_range (adc tf : BitVec 32) (c : Coefs) :
    0 ≤ (compH adc tf c).toInt ∧ (compH adc tf c).toInt ≤ 102400 := by
  obtain ⟨hlo, hhi⟩ := toInt_clampS_bounds (humU adc tf c) 0#32 419430400#32 (by decide)
  have hzero : (0#32).toInt = 0 := by decide
  have htop : (419430400#32).toInt = 419430400 := by decide
  rw [compH, toInt_sra]
  omega

/-- Settles O55: each quotient from the range of its integer. -/
theorem engineProducesOnlyItsRange : Obligations.EngineProducesOnlyItsRange := by
  refine ⟨fun raw => ?_, fun tf => ?_, fun r => ?_, fun adc tf c => ?_, fun q => engineProduces_range⟩
  · have hlo := BitVec.le_toInt raw
    have hhi := BitVec.toInt_lt (x := raw)
    exact ⟨raw.toInt, .inl ⟨by omega, by omega, rfl⟩⟩
  · obtain ⟨hlo, hhi⟩ := toInt_compTInt_range tf
    exact ⟨_, .inr (.inl ⟨hlo, hhi, rfl⟩)⟩
  · have hlt := r.isLt
    exact ⟨r.toNat, .inr (.inr (.inl ⟨by omega, by omega, rfl⟩))⟩
  · obtain ⟨hlo, hhi⟩ := toInt_compH_range adc tf c
    exact ⟨_, .inr (.inr (.inr ⟨hlo, hhi, rfl⟩))⟩

/-- Above the subnormals the error is at most 2^-24 of the magnitude. -/
theorem abs_round32_sub_le_mul {q : Rat} (h : 2 ^ (-125 : Int) ≤ |q|) : |round32 q - q| ≤ |q| * mkRat 1 16777216 := by
  have hq : 0 < |q| := lt_of_lt_of_le (by positivity) h
  have hlog : -125 ≤ Int.log 2 |q| := (Int.zpow_le_iff_le_log (b := 2) (by decide) hq).1 (by exact_mod_cast h)
  have hle : 2 ^ binade32 q ≤ |q| := two_zpow_binade32_le_abs (abs_pos.1 hq) (by rw [binade32]; omega)
  calc |round32 q - q| ≤ 2 ^ (binade32 q - 24) := abs_round32_sub_le q
    _ = 2 ^ binade32 q * mkRat 1 16777216 := by
      rw [zpow_sub₀ two_ne_zero, Rat.mkRat_eq_div]
      norm_num
      ring
    _ ≤ |q| * mkRat 1 16777216 := mul_le_mul_of_nonneg_right hle (by decide)

/-- P4 of the default, on the whole range of R62. -/
theorem froundBinary32_bound {q : Rat} (h : q = 0 ∨ (mkRat 1 1024 ≤ |q| ∧ |q| ≤ mkRat 2147483648 100)) :
    isFinite32 (froundBinary32 q) = true ∧ |value32 (froundBinary32 q) - q| ≤ |q| * mkRat 1 16777216 := by
  have herr : |round32 q - q| ≤ |q| * mkRat 1 16777216 := by
    obtain rfl | ⟨hlo, -⟩ := h
    · simp
    · exact abs_round32_sub_le_mul (le_trans (by norm_num [Rat.mkRat_eq_div]) hlo)
  have hlt : |round32 q| < 2 ^ 128 := by
    have hmag : |q| ≤ mkRat 2147483648 100 := by
      obtain rfl | ⟨-, hhi⟩ := h
      · exact abs_zero.trans_le (by decide)
      · exact hhi
    have htri : |round32 q| ≤ |round32 q - q| + |q| := by simpa using abs_add_le (round32 q - q) q
    norm_num [Rat.mkRat_eq_div] at herr hmag
    linarith
  obtain ⟨hfin, hvalue⟩ := froundBinary32_of_lt hlt
  exact ⟨hfin, hvalue ▸ herr⟩

/-- Settles O59: P4, for the default by its unit of the last place. -/
theorem froundErrorBound : Obligations.FroundErrorBound := by
  refine ⟨fun choice q h => ?_, fun q => froundBinary32_bound⟩
  cases choice with
  | binary32 =>
    obtain ⟨hfin, hbound⟩ := froundBinary32_bound (engineProduces_range h)
    exact ⟨_, number32_of_finite hfin, hbound⟩
  | other k => exact numberOf_fround_other_bound k h

/-- Settles O60: `H_int` has at most 17 bits and its unit is 2^-10. -/
theorem humidityOutputIsExact : Obligations.HumidityOutputIsExact := by
  intro adc tf c
  obtain ⟨hlo, hhi⟩ := toInt_compH_range adc tf c
  generalize (compH adc tf c).toInt = h at *
  have hunit : |mkRat h 1024| = h.natAbs * 2 ^ (-10 : Int) := by
    rw [abs_mkRat, div_eq_mul_inv]
    norm_num
  have hround : round32 (mkRat h 1024) = mkRat h 1024 := round32_eq_self (by omega) (by decide) hunit
  have hlt : |round32 (mkRat h 1024)| < 2 ^ 128 := by
    have hnat : (h.natAbs : Rat) ≤ 102400 := by exact_mod_cast (by omega : h.natAbs ≤ 102400)
    calc |round32 (mkRat h 1024)| = h.natAbs * 2 ^ (-10 : Int) := by rw [hround, hunit]
      _ ≤ 102400 * 2 ^ (-10 : Int) := by gcongr
      _ < 2 ^ 128 := by norm_num
  rw [(froundBinary32_of_lt hlt).2, hround]

end Sys2Proof.Machine
end

section
/-! PROOFS. The initialization sequencer (spec/41_init_sequencer.md): the error count in `RESULT` (R63), the paths of `INIT_ACC`
(R64) and of `INIT_ENV` (R65), and where the two store (R30). -/

namespace Sys2Proof.Machine

/-! ## The error count (R16, R63) -/

theorem verdictFlag_le (v : Verdict) : verdictFlag v ≤ 16 := by cases v <;> decide

theorem transportFlag_le (n : Nat) : transportFlag n ≤ 1 := by unfold transportFlag; split <;> decide

/-- Under the error count stand the flags of R16; nothing is lost in the 16 bits. -/
theorem toNat_resultWord (v : Verdict) (n : Nat) :
    (resultWord v n).toNat = n % 256 * 256 + verdictFlag v + transportFlag n := by
  have hv := verdictFlag_le v
  have hn := transportFlag_le n
  rw [resultWord, BitVec.toNat_ofNat]
  omega

theorem resErrCnt_resultWord (v : Verdict) (n : Nat) : (resErrCnt (resultWord v n)).toNat = n % 256 := by
  have hv := verdictFlag_le v
  have hn := transportFlag_le n
  rw [resErrCnt, BitVec.extractLsb'_toNat, toNat_resultWord, Nat.shiftRight_eq_div_pow]
  omega

/-- Bit 0 is `TRANSPORT_ERR` alone, since every verdict's flag is even (R16). -/
theorem resTransportErr_resultWord (v : Verdict) (n : Nat) : resTransportErr (resultWord v n) = decide (n ≠ 0) := by
  have heven : verdictFlag v % 2 = 0 := by cases v <;> rfl
  rw [resTransportErr, BitVec.getLsbD, toNat_resultWord, Nat.testBit_zero, transportFlag]
  split <;> simp [*]; omega

/-- The word a command ends with, as the outcomes of R64 and R65 write it. -/
theorem resultWord_eq_outcomeWord (v : Verdict) (n : Nat) : resultWord v n = outcomeWord (verdictFlag v) n := by
  apply BitVec.eq_of_toNat_eq
  rw [resultWord, outcomeWord, transportFlag, BitVec.toNat_ofNat, BitVec.toNat_ofNat]
  split <;> omega

/-- Settles O37: the counter a command ends with counts the failures of its events, and R7 keeps those below 256. -/
theorem errCntCountsFailedOperations : Obligations.ErrCntCountsFailedOperations := by
  intro i s t hwf h hidle
  obtain ⟨w, evs, ht, hend, -, hlen⟩ := exec_trace h
  rcases hend with rfl | ⟨v, rfl⟩
  · rw [ht.activity] at hidle
    cases hidle
  · obtain ⟨-, -, -, -, -, -, -, -, -, hmodes⟩ := s.cfg.wf_iff.1 hwf
    have hfailed : w.failed = failedOps evs := by rw [ht.failed, beginCommand_failed, Nat.zero_add]
    have hle : failedOps evs ≤ evs.length := failedOps_le_length evs
    refine ⟨evs, ?_, ?_, ?_⟩
    · rw [endCommand_bus, ht.bus, busAfter_history]
      rfl
    · rw [endCommand_result, resErrCnt_resultWord, hfailed]
      omega
    · rw [endCommand_result, resTransportErr_resultWord, hfailed]

/-! ## Where the initializations store -/

/-- An address that holds none of a command's registers to write reads as before (R30). -/
theorem exec_memGet_of_not_written {i : Instr} {s t : State} (h : exec i s = .next t) {a : Nat}
    (ha : ∀ dev reg v, (dev, reg, v) ∈ writesOf s.cfg i → sensorAddr dev reg ≠ a) :
    memGet t.bus.mem a = memGet s.bus.mem a := by
  obtain ⟨evs, -, hbus, hok⟩ := exec_bus h
  rw [hbus]
  exact busAfter_memGet _ _ _ fun dev reg v st he => ha dev reg v (hok _ he)

/-- An address at which the events write no byte but `v` holds `v` or what it held before (R40). -/
theorem busAfter_memGet_eq_or (t : Bus) (evs : List Event) {a : Nat} {v : Byte} (hwf : t.mem.wf = true)
    (h : ∀ dev reg x st, Event.wr dev reg x st ∈ evs → sensorAddr dev reg = a → x = v) :
    memGet (busAfter t evs).mem a = v ∨ memGet (busAfter t evs).mem a = memGet t.mem a := by
  induction evs generalizing t with
  | nil => exact .inr rfl
  | cons e es ih =>
    have hes := fun dev reg x st he => h dev reg x st (List.mem_cons_of_mem _ he)
    cases e with
    | rd dev reg n b st => exact ih _ hwf hes
    | wt ms => exact ih _ hwf hes
    | wr dev reg x st =>
      refine (ih _ (afterWrite_wf t dev reg x st hwf) hes).elim .inl fun hlast => ?_
      have hfirst : memGet (afterWrite t dev reg x st).mem a = v ∨
          memGet (afterWrite t dev reg x st).mem a = memGet t.mem a := by
        rw [afterWrite_mem]
        split
        · by_cases ha : sensorAddr dev reg = a
          · left
            rw [← h dev reg x st List.mem_cons_self ha, ← ha]
            exact memGet_memPut_same hwf _ x
          · exact .inr (memGet_memPut_other _ _ _ _ (Ne.symm ha))
        · exact .inr rfl
      exact hfirst.imp hlast.trans hlast.trans

/-- Settles O34: the address map gives `INIT_ACC` one byte to write, at one register. -/
theorem initAccStoresOnlyPowerByte : Obligations.InitAccStoresOnlyPowerByte := by
  intro s t h
  have hwrites {dev : DevAddr} {reg : RegOffset} {v : Byte} (hm : (dev, reg, v) ∈ writesOf s.cfg .initAcc) :
      dev = s.cfg.accAddr ∧ reg = s.cfg.accRegPower ∧ v = s.cfg.accPowerByte := by simpa [writesOf] using hm
  refine ⟨fun a ha => exec_memGet_of_not_written h fun dev reg v hm => ?_, fun hwf => ?_⟩
  · obtain ⟨rfl, rfl, -⟩ := hwrites hm
    exact ha.symm
  · obtain ⟨evs, -, hbus, hok⟩ := exec_bus h
    rw [hbus]
    exact busAfter_memGet_eq_or _ _ hwf fun dev reg v st he _ => (hwrites (hok _ he)).2.2

/-- Settles O35: the registers named are all that the address map gives `INIT_ENV` to write. -/
theorem initEnvStoresOnlyItsRegisters : Obligations.InitEnvStoresOnlyItsRegisters := by
  intro s t h a hreset hconfig hmodes
  refine exec_memGet_of_not_written h fun dev reg v hm => ?_
  simp only [writesOf, List.mem_cons, List.mem_map, Prod.mk.injEq] at hm
  rcases hm with ⟨rfl, rfl, -⟩ | ⟨rfl, rfl, -⟩ | ⟨rv, hrv, rfl, rfl, -⟩
  · exact hreset.symm
  · exact hconfig.symm
  · rintro rfl
    exact hmodes (List.mem_map_of_mem hrv)

/-! ## A command that ends -/

/-- Command `i` takes `s` to `t`, back in IDLE: the events `evs` are the transport's answers and all that happened to the
bus, and `RESULT` has the verdict's flag and the count of the failed ones (R16, R38). -/
structure Ends (i : Instr) (s t : State) (v : Verdict) (evs : List Event) : Prop where
  exec_eq : exec i s = .next t
  idle : t.activity = .idle
  answered : answeredBy s.bus evs
  bus : t.bus = busAfter s.bus evs
  history : t.bus.history = s.bus.history ++ evs
  result : t.result = outcomeWord (verdictFlag v) (failedOps evs)

/-- A body that is done after its events makes a command that ends. -/
theorem ends_of_trace {i : Instr} {s : State} {v : Verdict} {w : Work} {evs : List Event}
    (hdone : commandBody i (beginCommand s) = .done v w) (ht : Trace (beginCommand s) w evs) :
    Ends i s (endCommand v w) v evs where
  exec_eq := by rw [exec_eq_runCommand, runCommand, hdone]
  idle := rfl
  answered := ht.answered
  bus := ht.bus
  history := by rw [endCommand_bus, ht.bus, busAfter_history]; rfl
  result := by rw [endCommand_result, resultWord_eq_outcomeWord, ht.failed, beginCommand_failed, Nat.zero_add]

/-! ## The parts of an initialization under a responsive transport -/

theorem Run.Completes.ne_stuck {α : Type} {r : Run α} (h : r.Completes) (w : Work) : r ≠ .stuck w := by
  obtain ⟨a, w', rfl, -⟩ := h
  simp

section
variable {w : Work} (h : Responsive w.state)
include h

/-- The identity check reads one byte and compares it, whatever the status (R63 a). -/
theorem identityCheck_done (dev : DevAddr) (reg : RegOffset) (expected : Byte) :
    ∃ b st w', identityCheck w dev reg expected = .done (decide (b = expected)) w' ∧
      Trace w w' [.rd dev reg 1 [b] st] ∧ w'.state.env = w.state.env := by
  rcases identityCheck_trace w dev reg expected with hs | ⟨b, st, w', hd, ht, hlen, -, henv⟩
  · exact absurd hs ((identityCheck_completes h dev reg expected).ne_stuck w)
  · obtain ⟨x, rfl⟩ := List.length_eq_one_iff.1 hlen
    exact ⟨x, st, w', hd, ht, henv⟩

theorem memWrite_done (dev : DevAddr) (reg : RegOffset) (v : Byte) :
    ∃ st w', memWrite w dev reg v = .done st w' ∧ Trace w w' [.wr dev reg v st] := by
  rcases memWrite_trace w dev reg v with hs | ⟨st, w', hd, ht, -⟩
  · exact absurd hs (memWrite_ne_stuck h dev reg v)
  · exact ⟨st, w', hd, ht⟩

/-- Steps 2 and 3 of `INIT_ENV`: the delay stands between the two writes, whatever their statuses (R65). -/
theorem initEnvConfigure_done :
    ∃ st2 st3 w', initEnvConfigure w = .done st3 w' ∧
      Trace w w' [.wr w.state.cfg.envAddr w.state.cfg.envRegReset w.state.cfg.envResetCmd st2, .wt 100,
        .wr w.state.cfg.envAddr w.state.cfg.envRegConfig w.state.cfg.envConfigByte st3] := by
  obtain ⟨st2, w1, hd, ht⟩ := memWrite_done h w.state.cfg.envAddr w.state.cfg.envRegReset w.state.cfg.envResetCmd
  have htw : Trace w (waitMs w1 Config.envResetDelay) _ := ht.trans (waitMs_trace w1 Config.envResetDelay)
  obtain ⟨st3, w2, hd2, ht2⟩ :=
    memWrite_done (htw.responsive h) w.state.cfg.envAddr w.state.cfg.envRegConfig w.state.cfg.envConfigByte
  refine ⟨st2, st3, w2, ?_, htw.trans ht2⟩
  simp only [initEnvConfigure, hd, Run.andThen_done, htw.cfg, hd2]

end

/-- The three ways steps 4 to 6 of `INIT_ENV` go (R65, R70): the verdict, the events, and the calibration that stands in the
ENV handle `e` afterwards. -/
inductive CalibrationPath (p : Params) (e : EnvHandle) : Verdict → List Event → Prop
  | firstFailed (bt : List Byte) (hcoefs : e.coefs = Coefs.zero) (hvalid : e.calValid = false) :
    CalibrationPath p e .calFail [.rd p.envAddr p.calTpBase 24 bt .fail]
  | secondFailed (bt bh : List Byte) (hcoefs : e.coefs = Coefs.zero) (hvalid : e.calValid = false) :
    CalibrationPath p e .calFail [.rd p.envAddr p.calTpBase 24 bt .ok, .rd p.envAddr p.calHBase 9 bh .fail]
  | full (bt bh : List Byte) (sts : List Status) (hlen : sts.length = p.envModeWrites.length)
    (hcoefs : e.coefs = reassemble p.hLayout p.h45SignExtend bt bh) (hvalid : e.calValid = true) :
    CalibrationPath p e .complete
      ([.rd p.envAddr p.calTpBase 24 bt .ok, .rd p.envAddr p.calHBase 9 bh .ok] ++
        List.zipWith (fun rv st => Event.wr p.envAddr rv.1 rv.2 st) p.envModeWrites sts)

/-- Steps 4 to 6 of `INIT_ENV` go one of the three ways: the mode writes follow a full load alone, and leave it. -/
theorem initEnvCalibrate_done {w : Work} (h : Responsive w.state) :
    ∃ v evs w', initEnvCalibrate w = .done v w' ∧ Trace w w' evs ∧ CalibrationPath w.state.cfg w'.state.env v evs := by
  rcases calLoad_trace w with ⟨w', -, hs, -⟩ | ⟨bt, w1, hd, ht, -⟩ | ⟨bt, bh, st, w1, hd, ht, -⟩
  · exact absurd hs ((calLoad_completes h).ne_stuck w')
  · exact ⟨.calFail, _, _, by rw [initEnvCalibrate, hd]; rfl, commitCal_trace ht _ _, .firstFailed bt rfl rfl⟩
  · cases st with
    | fail => exact ⟨.calFail, _, _, by rw [initEnvCalibrate, hd]; rfl, commitCal_trace ht _ _, .secondFailed bt bh rfl rfl⟩
    | ok =>
      have ht1 := commitCal_trace ht (reassemble w.state.cfg.hLayout w.state.cfg.h45SignExtend bt bh) true
      rcases memWriteAll_trace w.state.cfg.envAddr w.state.cfg.envModeWrites (w1.update _) with
        ⟨sts, w2, hd2, hlen, ht2, -, henv⟩ | ⟨-, -, -, -, -, -, -, hsilent⟩
      · refine ⟨.complete, _, w2, ?_, ht1.trans ht2, .full bt bh sts hlen ?_ ?_⟩
        · simp [initEnvCalibrate, hd, ht.cfg, hd2]
        · rw [henv, Work.update_state, State.commitCal_env_coefs]
        · rw [henv, Work.update_state, State.commitCal_env_calValid]
      · exact absurd hsilent (ht1.responsive h)

/-! ## The two initializations -/

/-- `INIT_ACC` ends on one of the two paths of R64, by the byte of its identity read. -/
theorem initAcc_ends {s : State} (h : Responsive s) :
    ∃ b st t v evs, Ends .initAcc s t v evs ∧
      ((b ≠ s.cfg.accIdValue ∧ v = .idMismatch ∧ evs = [.rd s.cfg.accAddr s.cfg.accRegId 1 [b] st]) ∨
       (b = s.cfg.accIdValue ∧ v = .complete ∧ ∃ st2, evs = [.rd s.cfg.accAddr s.cfg.accRegId 1 [b] st,
          .wr s.cfg.accAddr s.cfg.accRegPower s.cfg.accPowerByte st2])) := by
  obtain ⟨b, st, w1, hd, ht, -⟩ :=
    identityCheck_done (w := beginCommand s) h s.cfg.accAddr s.cfg.accRegId s.cfg.accIdValue
  refine ⟨b, st, ?_⟩
  by_cases hb : b = s.cfg.accIdValue
  · obtain ⟨st2, w2, hd2, ht2⟩ := memWrite_done (ht.responsive h) s.cfg.accAddr s.cfg.accRegPower s.cfg.accPowerByte
    have hbody : commandBody .initAcc (beginCommand s) = .done .complete w2 := by
      simp [commandBody, initAccBody, hd, hb, ht.cfg, hd2]
    exact ⟨_, _, _, ends_of_trace hbody (ht.trans ht2), .inr ⟨hb, rfl, st2, rfl⟩⟩
  · have hbody : commandBody .initAcc (beginCommand s) = .done .idMismatch w1 := by
      simp [commandBody, initAccBody, hd, hb]
    exact ⟨_, _, _, ends_of_trace hbody ht, .inl ⟨hb, rfl, rfl⟩⟩

/-- Settles O25: the two paths, with the frame of a command that writes no register but `RESULT`. -/
theorem initAccOutcome : Obligations.InitAccOutcome := by
  refine ⟨decode_encode .initAcc, fun s h => ?_⟩
  obtain ⟨b, st, t, v, evs, hends, hpath⟩ := initAcc_ends h
  have hframe : (t.acc, t.env, t.cfg, t.host) = (s.acc, s.env, s.cfg, s.host) :=
    exec_keeps hends.exec_eq (fun s => (s.acc, s.env, s.cfg, s.host)) fun g hg s => by
      cases hg with
      | cal hi => simp at hi
  simp only [Prod.mk.injEq] at hframe
  obtain ⟨hacc, henv, hcfg, hhost⟩ := hframe
  refine ⟨b, st, evs, t, hends.exec_eq, hends.idle, hacc, henv, hcfg, hhost, hends.answered, hends.bus, hends.history, ?_⟩
  rcases hpath with ⟨hb, rfl, hevs⟩ | ⟨hb, rfl, hevs⟩
  · exact .inl ⟨hb, hevs, hends.result⟩
  · exact .inr ⟨hb, hevs, hends.result⟩

/-- `INIT_ENV` ends after a mismatch with its handle as it was, or configures and then calibrates (R65). -/
theorem initEnv_ends {s : State} (h : Responsive s) :
    ∃ b st t v evs, Ends .initEnv s t v evs ∧
      ((b ≠ s.cfg.envIdValue ∧ v = .idMismatch ∧ evs = [.rd s.cfg.envAddr s.cfg.envRegId 1 [b] st] ∧ t.env = s.env) ∨
       (b = s.cfg.envIdValue ∧ ∃ st2 st3 cal, CalibrationPath s.cfg t.env v cal ∧
          evs = [.rd s.cfg.envAddr s.cfg.envRegId 1 [b] st, .wr s.cfg.envAddr s.cfg.envRegReset s.cfg.envResetCmd st2,
            .wt 100, .wr s.cfg.envAddr s.cfg.envRegConfig s.cfg.envConfigByte st3] ++ cal)) := by
  obtain ⟨b, st, w1, hd, ht, henv⟩ :=
    identityCheck_done (w := beginCommand s) h s.cfg.envAddr s.cfg.envRegId s.cfg.envIdValue
  refine ⟨b, st, ?_⟩
  by_cases hb : b = s.cfg.envIdValue
  · obtain ⟨st2, st3, w2, hd2, ht2⟩ := initEnvConfigure_done (ht.responsive h)
    have ht12 := ht.trans ht2
    obtain ⟨v, cal, w3, hd3, ht3, hpath⟩ := initEnvCalibrate_done (ht12.responsive h)
    have hbody : commandBody .initEnv (beginCommand s) = .done v w3 := by
      simp [commandBody, initEnvBody, hd, hb, hd2, hd3]
    rw [ht12.cfg] at hpath
    rw [ht.cfg] at ht12
    exact ⟨_, _, _, ends_of_trace hbody (ht12.trans ht3), .inr ⟨hb, st2, st3, cal, hpath, rfl⟩⟩
  · have hbody : commandBody .initEnv (beginCommand s) = .done .idMismatch w1 := by
      simp [commandBody, initEnvBody, hd, hb]
    exact ⟨_, _, _, ends_of_trace hbody ht, .inl ⟨hb, rfl, rfl, henv⟩⟩

/-- Settles O26: the mismatch, and the three ways of the calibration after the configuration. -/
theorem initEnvOutcome : Obligations.InitEnvOutcome := by
  refine ⟨decode_encode .initEnv, fun s h => ?_⟩
  obtain ⟨b, st, t, v, evs, hends, hpath⟩ := initEnv_ends h
  obtain ⟨hacc, -, htemp, hpress, hhum, hcfg, hhost⟩ := commandsWriteOnlyTheirRegisters _ _ _ hends.exec_eq
  obtain ⟨htFine, htemp⟩ := htemp (by simp)
  refine ⟨b, st, evs, t, hends.exec_eq, hends.idle, hacc (by simp), hcfg, hhost, htFine, htemp, hpress (by simp),
    hhum (by simp), hends.answered, hends.bus, hends.history, ?_⟩
  rcases hpath with ⟨hb, rfl, hevs, henv⟩ | ⟨hb, st2, st3, cal, hcal, rfl⟩
  · exact .inl ⟨hb, hevs, by rw [henv], by rw [henv], hends.result⟩
  · refine .inr ⟨hb, st2, st3, ?_⟩
    cases hcal with
    | firstFailed bt hcoefs hvalid =>
      exact ⟨bt, .fail, [], rfl, .inl ⟨rfl, rfl, hcoefs, hvalid, hends.result⟩⟩
    | secondFailed bt bh hcoefs hvalid =>
      exact ⟨bt, .ok, _, rfl, .inr ⟨rfl, bh, .fail, [], rfl, .inl ⟨rfl, rfl, hcoefs, hvalid, hends.result⟩⟩⟩
    | full bt bh sts hlen hcoefs hvalid =>
      exact ⟨bt, .ok, _, rfl, .inr ⟨rfl, bh, .ok, _, rfl, .inr ⟨rfl, hcoefs, hvalid, hends.result, sts, hlen, rfl⟩⟩⟩

end Sys2Proof.Machine
end

section
/-! PROOFS. The calibration loader (spec/42_cal_loader.md): the two block layouts (R68, R69), `LOAD_CAL` (R67, R70), and what
the rest of the engine may rely on (R71), with the invariant of which that is a part. -/

namespace Sys2Proof.Machine

/-! ## The block layouts (R68, R69) -/

/-- A field of the temperature and pressure block is a pair of bytes, low byte first (R68). -/
theorem toNat_calField (bt : List Byte) (j : Nat) : (calField bt j).toNat = Claims.field16 bt j :=
  toNat_pair16 _ _

theorem toInt_calField (bt : List Byte) (j : Nat) : (calField bt j).toInt = Claims.asSigned 16 (Claims.field16 bt j) := by
  rw [toInt_eq_asSigned (by decide), toNat_calField]

/-- Settles O20: each coefficient is its field, read as unsigned or as signed. -/
theorem temperaturePressureBlockLayout : Obligations.TemperaturePressureBlockLayout := fun _ _ bt _ =>
  ⟨toNat_calField bt 0, toInt_calField bt 1, toInt_calField bt 2, toNat_calField bt 3, toInt_calField bt 4,
    toInt_calField bt 5, toInt_calField bt 6, toInt_calField bt 7, toInt_calField bt 8, toInt_calField bt 9,
    toInt_calField bt 10, toInt_calField bt 11⟩

theorem toNat_zext16_byte (v : Byte) : (zext 16 v).toNat = v.toNat := toNat_zext (by decide) v

/-- `dig_H4`'s pattern ends in the low nibble of the shared byte (R69). -/
theorem toNat_humP4 (l : HLayout) (bh : List Byte) :
    (humP4 l bh).toNat = (humByte bh l.h4Hi).toNat * 16 + (humByte bh l.h45).toNat % 16 := by
  have hhigh := toNat_zext16_byte (humByte bh l.h4Hi)
  have hlow : (zext 16 (humByte bh l.h45) &&& 0x000F#16).toNat = (humByte bh l.h45).toNat % 16 := by
    rw [BitVec.toNat_and, toNat_zext16_byte]
    exact Nat.and_two_pow_sub_one_eq_mod _ 4
  rw [humP4, toNat_shlU_or (by omega) (by omega), hhigh, hlow]
  rfl

/-- `dig_H5`'s pattern ends in the high nibble of the shared byte (R69). -/
theorem toNat_humP5 (l : HLayout) (bh : List Byte) :
    (humP5 l bh).toNat = (humByte bh l.h5Hi).toNat * 16 + (humByte bh l.h45).toNat / 16 := by
  have hhigh := toNat_zext16_byte (humByte bh l.h5Hi)
  have hlow : (srl (zext 16 (humByte bh l.h45)) 4).toNat = (humByte bh l.h45).toNat / 16 := by
    rw [toNat_srl, toNat_zext16_byte]
    rfl
  rw [humP5, toNat_shlU_or (by omega) (by omega), hhigh, hlow]
  rfl

/-- Neither reading of a 12-bit pattern wraps in 16 bits (R69). -/
theorem toInt_ext12 (x : Bool) {p : BitVec 16} (hp : p.toNat < 4096) :
    (ext12 x p).toInt = Claims.extended12 x p.toNat := by
  simp only [ext12, Claims.extended12, Bool.and_eq_true, decide_eq_true_eq]
  split
  next hneg => exact toInt_wrapS_of_range (by decide) (by omega) (by omega)
  next => exact BitVec.toInt_eq_toNat_of_lt (by omega)

/-- Settles O21: two bytes, a pair, two 12-bit patterns with their extension, and one signed byte. -/
theorem humidityBlockLayout : Obligations.HumidityBlockLayout := by
  intro l x bt bh
  have hp4 := toNat_humP4 l bh
  have hp5 := toNat_humP5 l bh
  refine ⟨rfl, ?_, rfl, ?_, ?_, toInt_eq_asSigned (by decide) _⟩
  · exact (toInt_eq_asSigned (by decide) _).trans (congrArg _ (toNat_pair16 _ _))
  · exact (toInt_ext12 x (by omega)).trans (congrArg _ hp4)
  · exact (toInt_ext12 x (by omega)).trans (congrArg _ hp5)

/-! ## `LOAD_CAL` (R67, R70) -/

/-- The verdict of `LOAD_CAL` is the loader's (R67). -/
theorem loadCalBody_of_calLoad {w w' : Work} {ok : Bool} (h : calLoad w = .done ok w') :
    loadCalBody w = .done (if ok then .complete else .calFail) w' := by
  rw [loadCalBody, h, Run.andThen_done]

/-- Under a responsive transport `LOAD_CAL` ends on its first failed read with the set zero, or commits the set (R67). -/
theorem loadCal_ends {s : State} (h : Responsive s) :
    ∃ bt st t v evs, Ends .loadCal s t v evs ∧
      ((st = .fail ∧ v = .calFail ∧ evs = [.rd s.cfg.envAddr s.cfg.calTpBase 24 bt st] ∧
          t.env.coefs = Coefs.zero ∧ t.env.calValid = false) ∨
       (st = .ok ∧ ∃ bh st2,
          evs = [.rd s.cfg.envAddr s.cfg.calTpBase 24 bt st, .rd s.cfg.envAddr s.cfg.calHBase 9 bh st2] ∧
          ((st2 = .fail ∧ v = .calFail ∧ t.env.coefs = Coefs.zero ∧ t.env.calValid = false) ∨
           (st2 = .ok ∧ v = .complete ∧ t.env.coefs = reassemble s.cfg.hLayout s.cfg.h45SignExtend bt bh ∧
              t.env.calValid = true)))) := by
  rcases calLoad_trace (beginCommand s) with ⟨w', -, hs, -⟩ | ⟨bt, w1, hd, ht, -⟩ | ⟨bt, bh, st2, w1, hd, ht, -⟩
  · exact absurd hs ((calLoad_completes (w := beginCommand s) h).ne_stuck w')
  · exact ⟨bt, .fail, _, _, _, ends_of_trace (loadCalBody_of_calLoad hd) (commitCal_trace ht _ _),
      .inl ⟨rfl, rfl, rfl, rfl, rfl⟩⟩
  · cases st2 with
    | fail =>
      exact ⟨bt, .ok, _, _, _, ends_of_trace (loadCalBody_of_calLoad hd) (commitCal_trace ht _ _),
        .inr ⟨rfl, bh, .fail, rfl, .inl ⟨rfl, rfl, rfl, rfl⟩⟩⟩
    | ok =>
      exact ⟨bt, .ok, _, _, _, ends_of_trace (loadCalBody_of_calLoad hd) (commitCal_trace ht _ _),
        .inr ⟨rfl, bh, .ok, rfl, .inr ⟨rfl, rfl, rfl, rfl⟩⟩⟩

/-- Settles O27: the ways of `loadCal_ends`, each with the `RESULT` of its count of failed reads. -/
theorem loadCalOutcome : Obligations.LoadCalOutcome := by
  refine ⟨decode_encode .loadCal, fun s h => ?_⟩
  obtain ⟨bt, st, t, v, evs, hends, hpath⟩ := loadCal_ends h
  obtain ⟨hacc, -, htemp, hpress, hhum, hcfg, hhost⟩ := commandsWriteOnlyTheirRegisters _ _ _ hends.exec_eq
  obtain ⟨htFine, htemp⟩ := htemp (by simp)
  refine ⟨bt, st, evs, t, hends.exec_eq, hends.idle, hacc (by simp), hcfg, hhost, htFine, htemp, hpress (by simp),
    hhum (by simp), hends.answered, hends.bus, hends.history, ?_⟩
  rcases hpath with ⟨rfl, rfl, rfl, hcoefs, hvalid⟩ |
    ⟨rfl, bh, st2, rfl, ⟨rfl, rfl, hcoefs, hvalid⟩ | ⟨rfl, rfl, hcoefs, hvalid⟩⟩
  · exact .inl ⟨rfl, rfl, hcoefs, hvalid, hends.result⟩
  · exact .inr ⟨rfl, bh, .fail, rfl, .inl ⟨rfl, hcoefs, hvalid, hends.result⟩⟩
  · exact .inr ⟨rfl, bh, .ok, rfl, .inr ⟨rfl, hcoefs, hvalid, hends.result⟩⟩

/-! ## What a step does to calibration (R71) -/

/-- The coefficients and `CAL_VALID`, which only the loader and a reset write (R13). -/
def State.calibration (s : State) : Coefs × Bool := (s.env.coefs, s.env.calValid)

/-- Somewhere in the events stand the two good reads of the loader from which `c` is reassembled, and no 24-byte read comes
after them (R71 a). -/
def LoadedBy (p : Params) (evs : List Event) (c : Coefs) : Prop :=
  ∃ pre post bt bh,
    evs = pre ++ [.rd p.envAddr p.calTpBase 24 bt .ok, .rd p.envAddr p.calHBase 9 bh .ok] ++ post ∧
      bt.length = 24 ∧ bh.length = 9 ∧ (∀ e ∈ post, isReadOf 24 e = false) ∧
      c = reassemble p.hLayout p.h45SignExtend bt bh

theorem calProvenance_iff (s : State) :
    calProvenance s ↔
      (s.activity = .idle → s.env.calValid = true → LoadedBy s.cfg s.bus.history s.env.coefs) := Iff.rfl

section
variable {p : Params} {c : Coefs} {e1 e2 : List Event}

theorem LoadedBy.append_left (h : LoadedBy p e2 c) : LoadedBy p (e1 ++ e2) c := by
  obtain ⟨pre, post, bt, bh, rfl, hbt, hbh, hpost, hc⟩ := h
  exact ⟨e1 ++ pre, post, bt, bh, by simp, hbt, hbh, hpost, hc⟩

theorem LoadedBy.append_right (h : LoadedBy p e1 c) (hno : ∀ e ∈ e2, isReadOf 24 e = false) : LoadedBy p (e1 ++ e2) c := by
  obtain ⟨pre, post, bt, bh, rfl, hbt, hbh, hpost, hc⟩ := h
  exact ⟨pre, post ++ e2, bt, bh, by simp, hbt, hbh, List.forall_mem_append.2 ⟨hpost, hno⟩, hc⟩

end

/-- What happens to the calibration `c` while the events are issued: it is kept, cleared, or replaced by a loaded one. That
the loader's reads account for it is said of what has `ended` and is not stuck in the midst of them (R70, log 6). -/
inductive CalEffect (p : Params) (c c' : Coefs × Bool) (evs : List Event) (ended : Bool) : Prop
  | kept (hcal : c' = c) (hno : ended = true → ∀ e ∈ evs, isReadOf 24 e = false)
  | cleared (hcal : c' = (Coefs.zero, false))
  | loaded (hvalid : c'.2 = true) (hload : ended = true → LoadedBy p evs c'.1)

/-- Two effects, one after another: the later one stands, unless it keeps what the earlier one left. -/
theorem CalEffect.append {p : Params} {c c1 c2 : Coefs × Bool} {e1 e2 : List Event} {ended : Bool}
    (h1 : CalEffect p c c1 e1 true) (h2 : CalEffect p c1 c2 e2 ended) : CalEffect p c c2 (e1 ++ e2) ended := by
  cases h2 with
  | cleared hcal => exact .cleared hcal
  | loaded hvalid hload => exact .loaded hvalid fun hend => (hload hend).append_left
  | kept hcal hno =>
    subst hcal
    cases h1 with
    | kept hcal1 hno1 => exact .kept hcal1 fun hend => List.forall_mem_append.2 ⟨hno1 rfl, hno hend⟩
    | cleared hcal1 => exact .cleared hcal1
    | loaded hvalid hload => exact .loaded hvalid fun hend => (hload rfl).append_right (hno hend)

/-- Coefficients that are zero unless valid stay so (R71 b). -/
theorem CalEffect.calConsistent {p : Params} {s t : State} {evs : List Event} {ended : Bool}
    (h : CalEffect p s.calibration t.calibration evs ended) (hs : calConsistent s = true) : calConsistent t = true := by
  cases h with
  | kept hcal =>
    obtain ⟨hcoefs, hvalid⟩ := Prod.mk.inj hcal
    rwa [Machine.calConsistent, hcoefs, hvalid]
  | cleared hcal =>
    obtain ⟨hcoefs, -⟩ := Prod.mk.inj hcal
    simp [Machine.calConsistent, hcoefs]
  | loaded hvalid =>
    have hvalid : t.env.calValid = true := hvalid
    simp [Machine.calConsistent, hvalid]

/-- The part comes to its end. -/
def Run.isDone {α : Type} : Run α → Bool
  | .done _ _ => true
  | .stuck _ => false

/-- Started on `w`, the part has one of the effects on the calibration. -/
def Run.Calibrates {α : Type} (r : Run α) (w : Work) : Prop :=
  ∃ evs, Trace w r.work evs ∧
    CalEffect w.state.cfg w.state.calibration r.work.state.calibration evs r.isDone

/-- Two parts, one after another (R35). -/
theorem Run.Calibrates.andThen {α β : Type} {w : Work} {r : Run α} {k : α → Work → Run β} (hr : r.Calibrates w)
    (hk : ∀ a w1, (k a w1).Calibrates w1) : (r.andThen k).Calibrates w := by
  obtain ⟨e1, ht1, h1⟩ := hr
  cases r with
  | stuck w1 => exact ⟨e1, ht1, h1⟩
  | done a w1 =>
    obtain ⟨e2, ht2, h2⟩ := hk a w1
    exact ⟨e1 ++ e2, ht1.trans ht2, h1.append (ht1.cfg ▸ h2)⟩

/-- A part without a 24-byte read that writes no coefficient keeps the calibration. -/
theorem Run.Calibrates.of_keeps {α : Type} {w : Work} {r : Run α} {ok : Event → Prop} {n : Nat}
    (hissues : r.Issues w ok n) (hok : ∀ e, ok e → isReadOf 24 e = false) (hkeeps : r.Keeps w State.calibration) :
    r.Calibrates w := by
  obtain ⟨evs, ht, hevs, -⟩ := hissues
  exact ⟨evs, ht, .kept hkeeps fun _ e he => hok e (hevs e he)⟩

theorem done_calibrates {α : Type} (a : α) (w : Work) : (Run.done a w).Calibrates w :=
  ⟨[], Trace.refl w, .kept rfl (by simp)⟩

theorem memWrite_calibrates (w : Work) (dev : DevAddr) (reg : RegOffset) (v : Byte) :
    (memWrite w dev reg v).Calibrates w :=
  .of_keeps (memWrite_issues fun _ => rfl) (fun _ => id) (memWrite_keeps (fun _ _ => rfl) dev reg v)

theorem memWriteAll_calibrates (w : Work) (dev : DevAddr) (l : List (RegOffset × Byte)) :
    (memWriteAll dev l w).Calibrates w :=
  .of_keeps (memWriteAll_issues fun _ _ _ => rfl) (fun _ => id) (memWriteAll_keeps (fun _ _ => rfl) dev l)

theorem identityCheck_calibrates (w : Work) (dev : DevAddr) (reg : RegOffset) (expected : Byte) :
    (identityCheck w dev reg expected).Calibrates w :=
  .of_keeps (identityCheck_issues fun _ _ _ => rfl) (fun _ => id) (identityCheck_keeps (fun _ _ => rfl) dev reg expected)

theorem initEnvConfigure_calibrates (w : Work) : (initEnvConfigure w).Calibrates w := by
  refine (memWrite_calibrates w _ _ _).andThen fun _ w1 => ?_
  have hwait : (Run.done () (waitMs w1 Config.envResetDelay)).Calibrates w1 :=
    ⟨_, waitMs_trace w1 Config.envResetDelay, .kept rfl fun _ => by simp [isReadOf]⟩
  exact hwait.andThen (k := fun _ w2 => memWrite w2 w2.state.cfg.envAddr w2.state.cfg.envRegConfig _)
    fun _ w2 => memWrite_calibrates w2 _ _ _

/-- The loader keeps the calibration only if it is stuck; a failed read clears it, two good ones replace it (R70). -/
theorem calLoad_calibrates (w : Work) : (calLoad w).Calibrates w := by
  rcases calLoad_trace w with ⟨w1, evs, hs, ht, -, -, henv⟩ | ⟨bt, w1, hd, ht, -⟩ | ⟨bt, bh, st, w1, hd, ht, hbt, hbh, -⟩
  · rw [hs]
    exact ⟨evs, ht, .kept (congrArg (fun e => (e.coefs, e.calValid)) henv) (by simp [Run.isDone])⟩
  · rw [hd]
    exact ⟨_, commitCal_trace ht _ _, .cleared rfl⟩
  · rw [hd]
    cases st with
    | fail => exact ⟨_, commitCal_trace ht _ _, .cleared rfl⟩
    | ok => exact ⟨_, commitCal_trace ht _ _, .loaded rfl fun _ => ⟨[], [], bt, bh, rfl, hbt, hbh, by simp, rfl⟩⟩

/-- Only the commands that run the loader are given a 24-byte read (R30). -/
theorem isReadOf_24_of_allowedFor {p : Params} {i : Instr} {e : Event} (hinit : i ≠ .initEnv) (hload : i ≠ .loadCal)
    (h : allowedFor p i e) : isReadOf 24 e = false := by
  cases e with
  | wr dev reg v st => rfl
  | wt ms => rfl
  | rd dev reg n b st =>
    obtain ⟨hmem, -⟩ := h
    have hn : n ≠ 24 := by
      rintro rfl
      cases i with
      | initEnv => exact hinit rfl
      | loadCal => exact hload rfl
      | _ => simp [readsOf] at hmem
    simpa [isReadOf] using hn

/-- A command that does not run the loader keeps the calibration (R13). -/
theorem commandBody_calibrates_of_keeps {i : Instr} (hinit : i ≠ .initEnv) (hload : i ≠ .loadCal) (w : Work) :
    (commandBody i w).Calibrates w := by
  refine .of_keeps (commandBody_issues i w) (fun _ => isReadOf_24_of_allowedFor hinit hload)
    (commandBody_keeps (fun _ _ => rfl) fun g hg s => ?_)
  cases hg with
  | cal hi => exact (hi.elim hinit hload).elim
  | _ => rfl

theorem commandBody_calibrates (i : Instr) (w : Work) : (commandBody i w).Calibrates w := by
  cases i with
  | loadCal => exact (calLoad_calibrates w).andThen fun _ w1 => done_calibrates _ w1
  | initEnv =>
    refine (identityCheck_calibrates w _ _ _).andThen fun isExpected w1 => ?_
    cases isExpected with
    | false => exact done_calibrates _ w1
    | true =>
      refine (initEnvConfigure_calibrates w1).andThen fun _ w2 => (calLoad_calibrates w2).andThen fun ok w3 => ?_
      cases ok with
      | false => exact done_calibrates _ w3
      | true => exact (memWriteAll_calibrates w3 _ _).andThen fun _ w4 => done_calibrates _ w4
  | _ => exact commandBody_calibrates_of_keeps (by simp) (by simp) w

/-- The same of a whole command, which has ended if the engine is IDLE again. -/
theorem exec_calibration {i : Instr} {s t : State} (h : exec i s = .next t) :
    ∃ evs, t.bus.history = s.bus.history ++ evs ∧ t.cfg = s.cfg ∧
      CalEffect s.cfg s.calibration t.calibration evs (t.activity == .idle) := by
  rw [exec_eq_runCommand] at h
  cases h
  obtain ⟨evs, ht, heffect⟩ := commandBody_calibrates i (beginCommand s)
  refine ⟨evs, ?_⟩
  rcases runCommand_cases (commandBody i) s with ⟨v, w, hb, hrun⟩ | ⟨w, hb, hrun⟩
  · rw [hb] at ht heffect
    rw [hrun]
    exact ⟨by rw [endCommand_bus, ← busAfter_history]; exact congrArg Bus.history ht.bus, ht.cfg, heffect⟩
  · have hbusy := activity_of_stuck hb
    rw [hb] at ht heffect
    rw [hrun, hbusy]
    exact ⟨by rw [← busAfter_history]; exact congrArg Bus.history ht.bus, ht.cfg, heffect⟩

/-- What a step does to the calibration: only the loader and a reset change it. -/
theorem step_calibration {s t : State} (h : step s = .next t) :
    ∃ evs, t.bus.history = s.bus.history ++ evs ∧ t.cfg = s.cfg ∧
      CalEffect s.cfg s.calibration t.calibration evs (t.activity == .idle) := by
  obtain ⟨-, hidle, hcases⟩ := step_cases h
  rcases hcases with ⟨-, rfl⟩ | ⟨v, ms, i, -, -, hexec⟩ | ⟨v, ms, -, -, rfl⟩ | ⟨reg, ms, v, -, -, rfl⟩ | ⟨ms, -, rfl⟩
  · exact ⟨[], by simp, rfl, .kept rfl (by simp)⟩
  · exact exec_calibration (s := s.setPending ms) hexec
  · rw [illegalCommand_of_idle (s := s.setPending ms) hidle]
    exact ⟨[], by simp, rfl, .kept rfl (by simp)⟩
  · exact ⟨[], by simp, rfl, .kept rfl (by simp)⟩
  · exact ⟨[], by simp [resetEvent], rfl, .cleared rfl⟩

/-- Settles O46: what stood is kept and no new block was read, or the loader's two reads stand in the new events. -/
theorem everyStepKeepsCalibrationProvenance : Obligations.EveryStepKeepsCalibrationProvenance := by
  intro s t hs h
  obtain ⟨-, hidle, -⟩ := step_cases h
  obtain ⟨evs, hhist, hcfg, heffect⟩ := step_calibration h
  rw [calProvenance_iff, hhist, hcfg]
  intro hidle' hvalid
  have hended : (t.activity == .idle) = true := by simp [hidle']
  cases heffect with
  | kept hcal hno =>
    obtain ⟨hcoefs, hsame⟩ := Prod.mk.inj hcal
    rw [hcoefs]
    exact ((calProvenance_iff s).1 hs hidle (hsame ▸ hvalid)).append_right (hno hended)
  | cleared hcal =>
    obtain ⟨-, hfalse⟩ := Prod.mk.inj hcal
    rw [hfalse] at hvalid
    cases hvalid
  | loaded _ hload => exact (hload hended).append_left

/-! ## The flags of `RESULT` (R16, R87) -/

/-- Bits 1 to 4 of `RESULT` are the verdict's flag (R16). -/
theorem getLsbD_resultWord (v : Verdict) (n : Nat) {k : Nat} (hlo : 1 ≤ k) (hhi : k ≤ 4) :
    (resultWord v n).getLsbD k = (verdictFlag v).testBit k := by
  have hn := transportFlag_le n
  have hdiv : (n % 256 * 256 + verdictFlag v + transportFlag n) / 2 ^ k % 2 = verdictFlag v / 2 ^ k % 2 := by
    interval_cases k <;> cases v <;> simp only [verdictFlag] <;> omega
  rw [BitVec.getLsbD, toNat_resultWord, Nat.testBit_eq_decide_div_mod_eq, Nat.testBit_eq_decide_div_mod_eq, hdiv]

theorem resIdMismatch_resultWord (v : Verdict) (n : Nat) :
    resIdMismatch (resultWord v n) = decide (v = .idMismatch) := by
  rw [resIdMismatch, getLsbD_resultWord v n (by decide) (by decide)]
  cases v <;> rfl

theorem resCalFail_resultWord (v : Verdict) (n : Nat) : resCalFail (resultWord v n) = decide (v = .calFail) := by
  rw [resCalFail, getLsbD_resultWord v n (by decide) (by decide)]
  cases v <;> rfl

theorem resIllegalCmd_resultWord (v : Verdict) (n : Nat) :
    resIllegalCmd (resultWord v n) = decide (v = .illegalCmd) := by
  rw [resIllegalCmd, getLsbD_resultWord v n (by decide) (by decide)]
  cases v <;> rfl

theorem resReserved_resultWord (v : Verdict) (n : Nat) : resReserved (resultWord v n) = 0 := by
  have hv := verdictFlag_le v
  have hn := transportFlag_le n
  apply BitVec.eq_of_toNat_eq
  rw [resReserved, BitVec.extractLsb'_toNat, toNat_resultWord, Nat.shiftRight_eq_div_pow]
  change _ = 0
  omega

/-- A command reports no illegal word, and a failed load only with a failed read (R87). -/
def Verdict.Reportable (v : Verdict) (n : Nat) : Prop := v ≠ .illegalCmd ∧ (v = .calFail → n ≠ 0)

/-- `RESULT` is legal at the end of a command whose count of failures has 8 bits (R16, R87). -/
theorem resultLegal_resultWord {v : Verdict} {n : Nat} (hv : v.Reportable n) (hn : n < 256) :
    resultLegal (resultWord v n) = true := by
  have hcount : (resErrCnt (resultWord v n) != 0) = decide (n ≠ 0) := by
    rw [Bool.eq_iff_iff, bne_iff_ne, decide_eq_true_iff, ne_eq, ← BitVec.toNat_inj, resErrCnt_resultWord,
      Nat.mod_eq_of_lt hn]
    rfl
  obtain ⟨hillegal, hfail⟩ := hv
  rw [resultLegal, hcount, resReserved_resultWord, resTransportErr_resultWord, resIdMismatch_resultWord,
    resCalFail_resultWord, resComputeErr_resultWord, resIllegalCmd_resultWord]
  cases v with
  | illegalCmd => exact absurd rfl hillegal
  | calFail => simp [hfail rfl]
  | _ => simp

/-- If the part comes to its end, then with `Q`. -/
def Run.Ensures {α : Type} (r : Run α) (Q : α → Work → Prop) : Prop := ∀ a w, r = .done a w → Q a w

theorem Run.Ensures.done {α : Type} {Q : α → Work → Prop} {a : α} {w : Work} (h : Q a w) : (Run.done a w).Ensures Q := by
  intro a' w' heq
  cases heq
  exact h

/-- Two parts, one after another (R35). -/
theorem Run.Ensures.andThen {α β : Type} {r : Run α} {k : α → Work → Run β} {P : α → Work → Prop} {Q : β → Work → Prop}
    (hr : r.Ensures P) (hk : ∀ a w, P a w → (k a w).Ensures Q) : (r.andThen k).Ensures Q := by
  intro b w h
  obtain ⟨a, w1, hdone, hrest⟩ := Run.andThen_eq_done h
  exact hk a w1 (hr a w1 hdone) b w hrest

theorem Run.Ensures.trivial {α : Type} (r : Run α) : r.Ensures fun _ _ => True := fun _ _ _ => True.intro

/-- A load fails by a failed read (R70). -/
theorem calLoad_ensures (w : Work) : (calLoad w).Ensures fun ok w' => ok = false → w'.failed ≠ 0 := by
  rcases calLoad_trace w with ⟨w1, -, hs, -⟩ | ⟨bt, w1, hd, ht, -⟩ | ⟨bt, bh, st, w1, hd, ht, -⟩
  · simp [Run.Ensures, hs]
  · rw [hd]
    exact .done fun _ => by simp [ht.failed, failedOps, isFailed]
  · rw [hd]
    cases st with
    | fail => exact .done fun _ => by simp [ht.failed, failedOps, isFailed]
    | ok => exact .done (by simp)

/-- What a command ends with can be reported (R87). -/
theorem commandBody_ensures (i : Instr) (w : Work) : (commandBody i w).Ensures fun v w' => v.Reportable w'.failed := by
  have hplain {v : Verdict} {w' : Work} (hv : v ≠ .illegalCmd ∧ v ≠ .calFail) :
      (Run.done v w').Ensures fun v w' => v.Reportable w'.failed := .done ⟨hv.1, fun h => absurd h hv.2⟩
  cases i with
  | initAcc =>
    refine (Run.Ensures.trivial _).andThen fun isExpected w1 _ => ?_
    cases isExpected with
    | false => exact hplain (by decide)
    | true => exact (Run.Ensures.trivial _).andThen fun _ _ _ => hplain (by decide)
  | readAcc | readTemp | readHum => exact (Run.Ensures.trivial _).andThen fun _ _ _ => hplain (by decide)
  | readPress =>
    refine (Run.Ensures.trivial _).andThen fun r w1 _ => ?_
    cases compP (adc20 r.1) w1.state.env.tFine w1.state.env.coefs with
    | none => exact hplain (by decide)
    | some p => exact hplain (by decide)
  | loadCal =>
    refine (calLoad_ensures w).andThen fun ok w1 hfailed => .done ?_
    cases ok with
    | false => exact ⟨by simp, fun _ => hfailed rfl⟩
    | true => exact ⟨by simp, by simp⟩
  | initEnv =>
    refine (Run.Ensures.trivial _).andThen fun isExpected w1 _ => ?_
    cases isExpected with
    | false => exact hplain (by decide)
    | true =>
      refine (Run.Ensures.trivial _).andThen fun _ w2 _ => (calLoad_ensures w2).andThen fun ok w3 hfailed => ?_
      cases ok with
      | false => exact .done ⟨by simp, fun _ => hfailed rfl⟩
      | true => exact (Run.Ensures.trivial _).andThen fun _ _ _ => hplain (by decide)

/-- A command leaves `RESULT` legal: as it was, if stuck, and otherwise with its verdict and at most 22 failures. -/
theorem exec_resultLegal {i : Instr} {s t : State} (hwf : s.cfg.wf = true) (h : exec i s = .next t)
    (hs : resultLegal s.result = true) : resultLegal t.result = true := by
  rw [exec_eq_runCommand] at h
  cases h
  obtain ⟨evs, ht, -, hlen⟩ := commandBody_issues i (beginCommand s)
  obtain ⟨-, -, -, -, -, -, -, -, -, hmodes⟩ := s.cfg.wf_iff.1 hwf
  rcases runCommand_cases (commandBody i) s with ⟨v, w, hb, hrun⟩ | ⟨w, hb, hrun⟩
  · have hfailed : (commandBody i (beginCommand s)).work.failed = 0 + failedOps evs := ht.failed
    have hle : failedOps evs ≤ evs.length := failedOps_le_length evs
    have hcfg : (beginCommand s).state.cfg = s.cfg := rfl
    rw [hb, Run.work] at hfailed
    rw [hcfg] at hlen
    rw [hrun, endCommand_result]
    exact resultLegal_resultWord (commandBody_ensures i _ v w hb) (by omega)
  · have hresult : (commandBody i (beginCommand s)).work.state.result = s.result := ht.result
    rw [hb, Run.work] at hresult
    rwa [hrun, hresult]

/-- Settles O44: the calibration by the effects a step has on it; memory and `RESULT` by the events and the end of a
command, since no other move writes memory and the others leave a plain `RESULT`. -/
theorem everyStepKeepsInvariant : Obligations.EveryStepKeepsInvariant := by
  rintro s t ⟨hmem, hcal, hresult⟩ h
  obtain ⟨hwf, hidle, hcases⟩ := step_cases h
  obtain ⟨evs, -, -, heffect⟩ := step_calibration h
  have hcal' : calConsistent t = true := heffect.calConsistent hcal
  rcases hcases with ⟨-, rfl⟩ | ⟨v, ms, i, -, -, hexec⟩ | ⟨v, ms, -, -, rfl⟩ | ⟨reg, ms, v, -, -, rfl⟩ | ⟨ms, -, rfl⟩
  · exact ⟨hmem, hcal', hresult⟩
  · obtain ⟨evs, -, hbus, -⟩ := exec_bus hexec
    exact ⟨hbus ▸ busAfter_wf _ evs hmem, hcal', exec_resultLegal (s := s.setPending ms) hwf hexec hresult⟩
  · rw [illegalCommand_of_idle (s := s.setPending ms) hidle] at hcal' ⊢
    exact ⟨hmem, hcal', (by decide : resultLegal 0x0010#16 = true)⟩
  · exact ⟨hmem, hcal', hresult⟩
  · exact ⟨hmem, hcal', (by decide : resultLegal 0x0000#16 = true)⟩

/-! ## Decoding without coefficients (R71 d, R101) -/

theorem mulS_zero {n : Nat} (a : BitVec n) : mulS a 0#n = 0#n := by
  simp [mulS, wrapS]

theorem compTFine_zero (adcT : BitVec 32) : compTFine adcT 0 0 0 = 0 := by
  have hext : sext 32 (0 : BitVec 16) = 0#32 := by decide
  rw [compTFine, tempStage1, tempStage2, hext, mulS_zero, mulS_zero]
  decide

/-- `P1` = 0 makes the divisor 0 (R80 b). -/
theorem compP_eq_none_of_digP1 (adcP tf : BitVec 32) {c : Coefs} (h : c.digP1 = 0) : compP adcP tf c = none := by
  have hext : zext 64 (0 : BitVec 16) = 0#64 := by decide
  have hdivisor : pressDivisor tf c.digP1 c.digP2 c.digP3 = 0#64 := by
    rw [pressDivisor, pressProduct, h, hext, mulS_zero]
    decide
  rw [compP, hdivisor]
  rfl

/-- `H2` = 0 leaves of `y` the rounding term alone, which the shift drops, and `H1` does not matter to 0 (R82). -/
theorem humU_zero (adc tf : BitVec 32) : humU adc tf Coefs.zero = 0#32 := by
  have hext : sext 32 Coefs.zero.digH2 = 0#32 := by decide
  have hy : humY (humV tf) Coefs.zero.digH2 Coefs.zero.digH3 Coefs.zero.digH6 = 0#32 := by
    rw [humY, hext]
    simp only [mulS_zero]
    decide
  simp only [humU, hy, mulS_zero]
  decide

theorem compH_zero (adc tf : BitVec 32) : compH adc tf Coefs.zero = 0#32 := by
  rw [compH, humU_zero]
  decide

theorem tempOutput_zero (choice : FroundChoice) : tempOutput choice 0 = fround choice 0 := by
  have hint : (compTInt 0).toInt = 0 := by decide
  rw [tempOutput, hint, exactRatio, Rat.zero_mkRat]

theorem humOutput_zero (choice : FroundChoice) : humOutput choice 0#32 = fround choice 0 := by
  rw [humOutput, BitVec.toInt_zero, exactRatio, Rat.zero_mkRat]

/-- A decoder that has ended ends as what follows its read does, on the registers and parameters the command began with. -/
theorem sample_ended {body : Work → Run Verdict} {dev : Params → DevAddr} {reg : Params → RegOffset} {len : Nat}
    {k : List Byte × Status → Work → Run Verdict} {s : State}
    (hbody : ∀ w, body w = (memRead w (dev w.state.cfg) (reg w.state.cfg) len).andThen k)
    (hidle : (runCommand body s).activity = .idle) :
    ∃ r w, runCommand body s = (k r w).ending ∧ w.state.env = s.env ∧ w.state.cfg = s.cfg := by
  rw [runCommand_eq_ending, hbody] at hidle ⊢
  rcases memRead_trace (beginCommand s) (dev (beginCommand s).state.cfg) (reg (beginCommand s).state.cfg) len with
    hread | ⟨b, st, w, hread, ht, -, -, henv⟩
  · rw [hread] at hidle
    cases hidle
  · exact ⟨_, w, by rw [hread, Run.andThen_done], henv, ht.cfg⟩

/-- Settles O50: zero factors make `t_fine`, the divisor and `H_int` zero, whatever the sample. -/
theorem uncalibratedDecodesAreFixed : Obligations.UncalibratedDecodesAreFixed := by
  intro i s t hcoefs h hidle
  rw [exec_eq_runCommand] at h
  cases h
  refine ⟨?_, ?_, ?_⟩
  · rintro rfl
    obtain ⟨r, w, hend, henv, hcfg⟩ := sample_ended (body := commandBody .readTemp) (fun _ => rfl) hidle
    have htFine : tFineOf w.state.env.coefs r.1 = 0 := by
      rw [henv, hcoefs]
      exact compTFine_zero _
    rw [hend]
    exact ⟨htFine, by rw [← tempOutput_zero, ← htFine, ← hcfg]; rfl⟩
  · rintro rfl
    obtain ⟨r, w, hend, henv, -⟩ := sample_ended (body := commandBody .readPress) (fun _ => rfl) hidle
    have hnone : compP (adc20 r.1) w.state.env.tFine w.state.env.coefs = none :=
      compP_eq_none_of_digP1 _ _ (by rw [henv, hcoefs]; rfl)
    rw [hend, hnone]
    exact ⟨resComputeErr_resultWord _ _, congrArg EnvHandle.press henv⟩
  · rintro rfl
    obtain ⟨r, w, hend, henv, hcfg⟩ := sample_ended (body := commandBody .readHum) (fun _ => rfl) hidle
    have hzero : compH (adcH r.1) w.state.env.tFine w.state.env.coefs = 0#32 := by
      rw [henv, hcoefs, compH_zero]
    rw [hend, ← humOutput_zero, ← hzero, ← hcfg]
    rfl

end Sys2Proof.Machine
end

section
/-! PROOFS. The acceleration decoder (spec/43_decode_acceleration.md): a decoder's one read under a responsive transport, and
what `READ_ACC` makes of it (R72, R73). -/

namespace Sys2Proof.Machine

/-! ## A decoder that ends -/

/-- One read leaves its status in `RESULT`: a failure is counted and sets `TRANSPORT_ERR`, bits 8 and 0 (R16, R63). -/
theorem outcomeWord_failedOps_rd (flags : Nat) (dev : DevAddr) (reg : RegOffset) (n : Nat) (b : List Byte) (st : Status) :
    outcomeWord flags (failedOps [.rd dev reg n b st]) =
      if st = .ok then BitVec.ofNat 16 flags else BitVec.ofNat 16 (flags + 0x0101) := by
  cases st <;> rfl

/-- Under a responsive transport a decoder ends with the verdict that what follows its read comes to, on the registers and
parameters the command began with; its read is its one event. -/
theorem sample_ends {i : Instr} {dev : Params → DevAddr} {reg : Params → RegOffset} {len : Nat}
    {k : List Byte × Status → Work → Run Verdict} {s : State}
    (hbody : ∀ w, commandBody i w = (memRead w (dev w.state.cfg) (reg w.state.cfg) len).andThen k)
    (hk : ∀ r w, ∃ v w', k r w = .done v w' ∧ Trace w w' []) (h : Responsive s) :
    ∃ b st w v w', k (b, st) w = .done v w' ∧
      Ends i s (endCommand v w') v [.rd (dev s.cfg) (reg s.cfg) len b st] ∧ b.length = len ∧
      w.state.acc = s.acc ∧ w.state.env = s.env ∧ w.state.cfg = s.cfg := by
  rcases memRead_trace (beginCommand s) (dev s.cfg) (reg s.cfg) len with hs | ⟨b, st, w, hread, ht, hlen, hacc, henv⟩
  · exact absurd hs (memRead_ne_stuck h _ _ _)
  · obtain ⟨v, w', hdone, ht'⟩ := hk (b, st) w
    have hcommand : commandBody i (beginCommand s) = .done v w' := by
      rw [hbody, beginCommand_state, State.setActivity_cfg, hread, Run.andThen_done, hdone]
    exact ⟨b, st, w, v, w', hdone, ends_of_trace hcommand (ht.trans ht'), hlen, hacc, henv, ht.cfg⟩

/-! ## `READ_ACC` (R72, R73) -/

/-- An output is rounded once, from the exact quotient of the signed sample (R73). -/
theorem accOutput_eq (choice : FroundChoice) (b : List Byte) (k : Nat) :
    accOutput choice b k = fround choice (mkRat (Claims.accSample b k * 39) 10000) := by
  rw [accOutput, accRatio, exactRatio, toInt_accRaw]

/-- `READ_ACC` ends with all three outputs decoded from its one read, whatever the read's status (R72). -/
theorem readAcc_ends {s : State} (h : Responsive s) :
    ∃ b st t, Ends .readAcc s t .complete [.rd s.cfg.accAddr s.cfg.accRegData 6 b st] ∧ b.length = 6 ∧
      t.acc = { x := accOutput s.cfg.fround b 0, y := accOutput s.cfg.fround b 1, z := accOutput s.cfg.fround b 2 } := by
  obtain ⟨b, st, w, v, w', hdone, hends, hlen, -, -, hcfg⟩ :=
    sample_ends (i := .readAcc) (fun _ => rfl) (fun _ _ => ⟨_, _, rfl, trivial, rfl, rfl, rfl, rfl, rfl, rfl⟩) h
  cases hdone
  exact ⟨b, st, _, hends, hlen, by rw [← hcfg]; rfl⟩

/-- Settles O28: the three outputs of `readAcc_ends`, with the frame of a command that writes no other register but
`RESULT`. -/
theorem readAccOutcome : Obligations.ReadAccOutcome := by
  refine ⟨decode_encode .readAcc, fun s h => ?_⟩
  obtain ⟨b, st, t, hends, hlen, hacc⟩ := readAcc_ends h
  have hframe : (t.env, t.cfg, t.host) = (s.env, s.cfg, s.host) :=
    exec_keeps hends.exec_eq (fun s => (s.env, s.cfg, s.host)) fun g hg s => by
      cases hg with
      | acc => rfl
      | cal hi => simp at hi
  simp only [Prod.mk.injEq] at hframe
  obtain ⟨henv, hcfg, hhost⟩ := hframe
  obtain ⟨hreply, -⟩ := hends.answered
  simp only [accOutput_eq] at hacc
  refine ⟨b, st, t, hreply, hlen, hends.exec_eq, hends.idle, henv, hcfg, hhost, by rw [hacc], by rw [hacc], by rw [hacc], ?_,
    hends.bus, hends.history⟩
  exact hends.result.trans (outcomeWord_failedOps_rd _ _ _ _ _ _)

end Sys2Proof.Machine
end

section
/-! PROOFS. The temperature decoder (spec/44_decode_temperature_tfine.md): `CompT` on plain integers (R75), what `READ_TEMP`
makes of its one read (R74), and the worked example's coefficients over all samples (R77). -/

namespace Sys2Proof

/-- An integer in the signed range is not changed by `wrap_s32` (R53). -/
theorem Claims.wrap_32_eq_self {z : Int} (hlo : -2147483648 ≤ z) (hhi : z < 2147483648) : Claims.wrap 32 z = z := by
  rw [Claims.wrap_eq_bmod (by decide), Int.bmod_eq_of_le_mul_two (by omega) (by omega)]

end Sys2Proof

namespace Sys2Proof.Machine

/-! ## `CompT` (R75) -/

theorem toInt_tempStage1 (adcT : BitVec 32) (t1 t2 : BitVec 16) :
    (tempStage1 adcT t1 t2).toInt =
      Claims.wrap 32 (Claims.wrap 32 (adcT.toInt / 8 - Claims.wrap 32 (t1.toNat * 2)) * t2.toInt) / 2048 := by
  have ht1 : (zext 32 t1).toInt = t1.toNat := toInt_zext (by decide) t1
  have ht2 : (sext 32 t2).toInt = t2.toInt := toInt_sext (by decide) (by decide) t2
  simp only [Claims.wrap_eq_bmod (n := 32) (by decide)]
  rw [tempStage1, toInt_sra, toInt_mulS, toInt_subS, toInt_sra, toInt_shlS, ht1, ht2]
  rfl

theorem toInt_tempStage2 (adcT : BitVec 32) (t1 t3 : BitVec 16) :
    (tempStage2 adcT t1 t3).toInt =
      Claims.wrap 32 (Claims.wrap 32 (Claims.wrap 32 (adcT.toInt / 16 - t1.toNat) *
        Claims.wrap 32 (adcT.toInt / 16 - t1.toNat)) / 4096 * t3.toInt) / 16384 := by
  have ht1 : (zext 32 t1).toInt = t1.toNat := toInt_zext (by decide) t1
  have ht3 : (sext 32 t3).toInt = t3.toInt := toInt_sext (by decide) (by decide) t3
  simp only [Claims.wrap_eq_bmod (n := 32) (by decide)]
  rw [tempStage2, toInt_sra, toInt_mulS, toInt_sra, toInt_mulS, toInt_subS, toInt_sra, ht1, ht3]
  rfl

theorem toInt_compTFine (adcT : BitVec 32) (t1 t2 t3 : BitVec 16) :
    (compTFine adcT t1 t2 t3).toInt = Claims.tFine adcT.toInt t1.toNat t2.toInt t3.toInt := by
  rw [compTFine, toInt_addS, toInt_tempStage1, toInt_tempStage2, ← Claims.wrap_eq_bmod (by decide), Claims.tFine]

theorem toInt_compTInt (tf : BitVec 32) : (compTInt tf).toInt = Claims.tInt tf.toInt := by
  rw [compTInt, toInt_sra, toInt_addS, toInt_mulS, Claims.tInt]
  simp only [Claims.wrap_eq_bmod (n := 32) (by decide)]
  rfl

/-- Settles O22: both results, operator by operator. -/
theorem temperatureFormula : Obligations.TemperatureFormula := fun adcT tf t1 t2 t3 =>
  ⟨toInt_compTFine adcT t1 t2 t3, toInt_compTInt tf⟩

/-! ## `READ_TEMP` (R74) -/

theorem toInt_tFineOf (c : Coefs) (b : List Byte) :
    (tFineOf c b).toInt = Claims.tFine (Claims.adc20 b) c.digT1.toNat c.digT2.toInt c.digT3.toInt := by
  rw [tFineOf, toInt_compTFine, toInt_adc20]

/-- `TEMP` is rounded once, from the exact quotient of `T_int` (R74). -/
theorem tempOutput_eq (choice : FroundChoice) (tf : BitVec 32) :
    tempOutput choice tf = fround choice (mkRat (Claims.tInt tf.toInt) 100) := by
  rw [tempOutput, exactRatio, toInt_compTInt]

/-- `READ_TEMP` ends with `t_fine` and `TEMP` computed from its one read, whatever the read's status (R74). -/
theorem readTemp_ends {s : State} (h : Responsive s) :
    ∃ b st t, Ends .readTemp s t .complete [.rd s.cfg.envAddr s.cfg.envRegTemp 3 b st] ∧ b.length = 3 ∧
      t.env.tFine = tFineOf s.env.coefs b ∧ t.env.temp = tempOutput s.cfg.fround t.env.tFine := by
  obtain ⟨b, st, w, v, w', hdone, hends, hlen, -, henv, hcfg⟩ :=
    sample_ends (i := .readTemp) (fun _ => rfl) (fun _ _ => ⟨_, _, rfl, trivial, rfl, rfl, rfl, rfl, rfl, rfl⟩) h
  cases hdone
  exact ⟨b, st, _, hends, hlen, by rw [← henv]; rfl, by rw [← hcfg]; rfl⟩

/-- Settles O29: the two values of `readTemp_ends`, with the frame of R22. -/
theorem readTempOutcome : Obligations.ReadTempOutcome := by
  refine ⟨decode_encode .readTemp, fun s h => ?_⟩
  obtain ⟨b, st, t, hends, hlen, htFine, htemp⟩ := readTemp_ends h
  obtain ⟨hacc, hcal, -, hpress, hhum, hcfg, hhost⟩ := commandsWriteOnlyTheirRegisters .readTemp s t hends.exec_eq
  obtain ⟨hcoefs, hvalid⟩ := hcal (by decide) (by decide)
  obtain ⟨hreply, -⟩ := hends.answered
  refine ⟨b, st, t, hreply, hlen, hends.exec_eq, hends.idle, hacc (by decide), hcfg, hhost, hcoefs, hvalid,
    hpress (by decide), hhum (by decide), ?_, ?_, ?_, hends.bus, hends.history⟩
  · rw [htFine, toInt_tFineOf]
  · rw [htemp, tempOutput_eq]
  · exact hends.result.trans (outcomeWord_failedOps_rd _ _ _ _ _ _)

/-! ## The worked example's coefficients (R77) -/

/-- `t_fine` of R75 for the worked example's T1 = 27504, T2 = 26435 and T3 = -1000, with no wrap at any operator. -/
def exampleTFine (a : Nat) : Int :=
  (((a / 8 : Nat) : Int) - 55008) * 26435 / 2048 +
    (((a / 16 : Nat) : Int) - 27504) * (((a / 16 : Nat) : Int) - 27504) / 4096 * (-1000) / 16384

/-- On a 20-bit sample `d` lies between -27504 and 38031, so its square stays below 2^31 (R77). -/
theorem exampleSquare_bounds {d : Int} (hlo : -27504 ≤ d) (hhi : d ≤ 38031) : 0 ≤ d * d ∧ d * d ≤ 1446356961 := by
  constructor <;> nlinarith

/-- On a 20-bit sample no operator of R75 wraps (R77). -/
theorem tFine_example_eq {a : Nat} (ha : a ≤ 1048575) : Claims.tFine a 27504 26435 (-1000) = exampleTFine a := by
  obtain ⟨hsqlo, hsqhi⟩ := exampleSquare_bounds (d := (a : Int) / 16 - 27504) (by omega) (by omega)
  simp only [Claims.tFine, exampleTFine, Int.natCast_ediv, Nat.cast_ofNat]
  simp (disch := omega) only [Claims.wrap_32_eq_self, Int.reduceMul]

theorem toInt_compTFine_example {a : Nat} (ha : a ≤ 1048575) :
    (compTFine (BitVec.ofNat 32 a) 27504 26435 (-1000)).toInt = exampleTFine a := by
  have hsample : (BitVec.ofNat 32 a).toInt = a := by
    rw [BitVec.toInt_ofNat', Int.bmod_eq_of_le_mul_two (by omega) (by omega)]
  rw [toInt_compTFine, hsample, ← tFine_example_eq ha]
  rfl

/-- Stage 1 gains at least 12 for each unit of `a / 16`. -/
theorem exampleStage1_gain {a b : Nat} (hab : a ≤ b) :
    (((a / 8 : Nat) : Int) - 55008) * 26435 / 2048 + 12 * (((b / 16 : Nat) : Int) - (a / 16 : Nat)) ≤
      (((b / 8 : Nat) : Int) - 55008) * 26435 / 2048 := by
  omega

/-- Stage 2 loses at most 2 for each unit of `d`: up to `d` = 38031 a unit adds at most 76062 to the square. -/
theorem exampleStage2_loss {d e : Int} (hde : d ≤ e) (hhi : e ≤ 38031) :
    d * d / 4096 * (-1000) / 16384 ≤ e * e / 4096 * (-1000) / 16384 + 2 * (e - d) := by
  have hsq : e * e ≤ d * d + 76062 * (e - d) := by nlinarith
  have hquot : e * e / 4096 ≤ d * d / 4096 + 19 * (e - d) := by omega
  omega

/-- What stage 2 loses, stage 1 gains (R77). -/
theorem exampleTFine_mono {a b : Nat} (hab : a ≤ b) (hb : b ≤ 1048575) : exampleTFine a ≤ exampleTFine b := by
  have hgain := exampleStage1_gain hab
  have hloss := exampleStage2_loss (d := ((a / 16 : Nat) : Int) - 27504) (e := ((b / 16 : Nat) : Int) - 27504)
    (by omega) (by omega)
  unfold exampleTFine
  omega

/-- Settles O54: a formula that does not decrease lies between its values at both ends. -/
theorem exampleTemperatureRange : Obligations.ExampleTemperatureRange := by
  intro a ha
  have hbottom : exampleTFine 0 = -721301 := by decide
  have htop : exampleTFine 1048575 = 960246 := by decide
  have hlo : exampleTFine 0 ≤ exampleTFine a := exampleTFine_mono (Nat.zero_le a) ha
  have hhi : exampleTFine a ≤ exampleTFine 1048575 := exampleTFine_mono ha (le_refl _)
  rw [toInt_compTFine_example ha]
  refine ⟨rfl, hbottom ▸ hlo, htop ▸ hhi, fun b hab hb => ?_⟩
  rw [toInt_compTFine_example hb]
  exact exampleTFine_mono hab hb

end Sys2Proof.Machine
end

section
/-! PROOFS. The pressure decoder (spec/45_decode_pressure.md): `CompP` on plain integers (R79), when its divisor is zero and
on what that depends (R80), and what `READ_PRESS` makes of its one read (R78). -/

namespace Sys2Proof.Machine

/-! ## `CompP` (R79) -/

theorem toInt_pressStart (tf : BitVec 32) : (pressStart tf).toInt = Claims.wrap 64 (tf.toInt - 128000) := by
  have htf : (sext 64 tf).toInt = tf.toInt := toInt_sext (by decide) (by decide) tf
  rw [pressStart, toInt_subS, htf, ← Claims.wrap_eq_bmod (by decide)]
  rfl

/-- A signed 16-bit coefficient keeps its value in 64 bits (R79). -/
theorem toInt_sext64_coef (a : BitVec 16) : (sext 64 a).toInt = a.toInt := toInt_sext (by decide) (by decide) a

theorem toInt_pressOffset (tf : BitVec 32) (p4 p5 p6 : BitVec 16) :
    (pressOffset tf p4 p5 p6).toInt = Claims.pressOffset tf.toInt p4.toInt p5.toInt p6.toInt := by
  simp only [pressOffset, toInt_addS, toInt_mulS, toInt_shlS, toInt_sext64_coef, toInt_pressStart, Claims.pressOffset,
    Claims.wrap_eq_bmod (n := 64) (by decide)]
  rfl

/-- The divisor is the wrapped product shifted by 33 (R79). -/
theorem toInt_pressDivisor_eq_ediv (tf : BitVec 32) (p1 p2 p3 : BitVec 16) :
    (pressDivisor tf p1 p2 p3).toInt = (pressProduct tf p1 p2 p3).toInt / 8589934592 := toInt_sra _ 33

theorem toInt_pressDivisor (tf : BitVec 32) (p1 p2 p3 : BitVec 16) :
    (pressDivisor tf p1 p2 p3).toInt = Claims.pressDivisor tf.toInt p1.toNat p2.toInt p3.toInt := by
  have hp1 : (zext 64 p1).toInt = p1.toNat := toInt_zext (by decide) p1
  have hone : (shlS 1#64 47).toInt = 140737488355328 := by decide
  rw [toInt_pressDivisor_eq_ediv, pressProduct, pressScale]
  simp only [toInt_addS, toInt_mulS, toInt_shlS, toInt_sra, toInt_sext64_coef, toInt_pressStart, hp1, hone,
    Claims.pressDivisor, Claims.wrap_eq_bmod (n := 64) (by decide)]
  rfl

theorem toInt_pressQuotient (adcP : BitVec 32) (var2 divisor : BitVec 64) :
    (pressQuotient adcP var2 divisor).toInt =
      Claims.wrap 64 (Claims.quotient (Claims.wrap 64 (Claims.wrap 64 (Claims.wrap 64 (Claims.wrap 64
        (1048576 - adcP.toInt) * 2147483648) - var2.toInt) * 3125)) divisor.toInt) := by
  have hadc : (sext 64 adcP).toInt = adcP.toInt := toInt_sext (by decide) (by decide) adcP
  simp only [pressQuotient, toInt_divS, toInt_mulS, toInt_subS, toInt_shlS, hadc, Claims.quotient_eq_tdiv,
    Claims.wrap_eq_bmod (n := 64) (by decide)]
  rfl

/-- The low bits of a signed value are its residue (R56). -/
theorem toNat_trunc_eq_emod {m n : Nat} (h : n ≤ m) (a : BitVec m) :
    (trunc n a).toNat = (a.toInt % (2 ^ n : Nat)).toNat := by
  have htrunc : trunc n a = BitVec.ofInt n a.toInt :=
    calc trunc n a
        = a.setWidth n := BitVec.ofNat_toNat n a
      _ = a.signExtend n := (BitVec.signExtend_eq_setWidth_of_le a h).symm
  rw [htrunc, BitVec.toNat_ofInt]

/-- From the quotient on, the rule's last four lines (R79). -/
theorem toNat_pressFinish_pressQuotient (adcP : BitVec 32) (var2 divisor : BitVec 64) (p7 p8 p9 : BitVec 16) :
    (pressFinish (pressQuotient adcP var2 divisor) p7 p8 p9).toNat =
      Claims.pressValue adcP.toInt var2.toInt divisor.toInt p7.toInt p8.toInt p9.toInt := by
  rw [Claims.pressValue, ← toInt_pressQuotient]
  simp only [pressFinish, toNat_trunc_eq_emod (show 32 ≤ 64 by decide), toInt_addS, toInt_mulS, toInt_shlS, toInt_sra,
    toInt_sext64_coef, Claims.wrap_eq_bmod (n := 64) (by decide)]
  rfl

/-- `CompP` reports a zero divisor and nothing else (R79). -/
theorem compP_eq_none_iff (adcP tf : BitVec 32) (c : Coefs) :
    compP adcP tf c = none ↔ pressDivisor tf c.digP1 c.digP2 c.digP3 = 0#64 := by
  rw [compP, ite_eq_left_iff]
  simp

/-- Settles O23: both sides test the same divisor, and past it compute the same number. -/
theorem pressureFormula : Obligations.PressureFormula := by
  intro adcP tf c
  have hdivisor : Claims.pressDivisor tf.toInt c.digP1.toNat c.digP2.toInt c.digP3.toInt = 0 ↔
      pressDivisor tf c.digP1 c.digP2 c.digP3 = 0#64 := by
    rw [← toInt_pressDivisor, ← BitVec.toInt_inj, BitVec.toInt_zero]
  simp only [compP, Claims.press, hdivisor]
  split
  · rfl
  · rw [Option.map_some, toNat_pressFinish_pressQuotient, toInt_pressOffset, toInt_pressDivisor]

/-! ## The guard (R80) -/

/-- Settles O52: the guard tests the divisor, which `t_fine`, P1, P2 and P3 determine. -/
theorem pressureGuardIgnoresSample : Obligations.PressureGuardIgnoresSample := by
  intro adc adc' tf c c' h1 h2 h3
  rw [compP_eq_none_iff, compP_eq_none_iff, h1, h2, h3]

/-- Settles O53: a shift by 33 leaves 0 of exactly the products in that range. -/
theorem pressureGuardZeroExactly : Obligations.PressureGuardZeroExactly := by
  refine fun adc tf c => ⟨?_, compP_eq_none_of_digP1 adc tf⟩
  rw [compP_eq_none_iff, ← BitVec.toInt_inj, BitVec.toInt_zero, toInt_pressDivisor_eq_ediv]
  omega

/-! ## `READ_PRESS` (R78) -/

/-- What `READ_PRESS` does with what `CompP` returned (R78). -/
def finishPress (w : Work) : Option (BitVec 32) → Run Verdict
  | none => .done .computeErr w
  | some p => .done .complete (w.update fun s => s.setPress (pressOutput s.cfg.fround p))

theorem readPressBody_eq (w : Work) :
    readPressBody w = (memRead w w.state.cfg.envAddr w.state.cfg.envRegPress 3).andThen fun r w1 =>
      finishPress w1 (compP (adc20 r.1) w1.state.env.tFine w1.state.env.coefs) := by
  refine congrArg (Run.andThen _) (funext fun r => funext fun w1 => ?_)
  generalize compP (adc20 r.1) w1.state.env.tFine w1.state.env.coefs = o
  cases o <;> rfl

/-- Either way it issues no event. -/
theorem finishPress_done (w : Work) (o : Option (BitVec 32)) : ∃ v w', finishPress w o = .done v w' ∧ Trace w w' [] := by
  cases o with
  | none => exact ⟨_, _, rfl, Trace.refl w⟩
  | some p => exact ⟨_, _, rfl, trivial, rfl, rfl, rfl, rfl, rfl, rfl⟩

/-- `READ_PRESS` ends after its one read, whatever the read's status, on what `CompP` returned for its bytes (R78). -/
theorem readPress_ends {s : State} (h : Responsive s) :
    ∃ b st w v w', Ends .readPress s (endCommand v w') v [.rd s.cfg.envAddr s.cfg.envRegPress 3 b st] ∧ b.length = 3 ∧
      finishPress w (compP (adc20 b) s.env.tFine s.env.coefs) = .done v w' ∧
      w.state.env = s.env ∧ w.state.cfg = s.cfg := by
  obtain ⟨b, st, w, v, w', hdone, hends, hlen, -, henv, hcfg⟩ :=
    sample_ends (i := .readPress) readPressBody_eq (fun _ w => finishPress_done w _) h
  exact ⟨b, st, w, v, w', hends, hlen, henv ▸ hdone, henv, hcfg⟩

/-- `CompP` on a read's bytes is the rule's on their 20-bit sample (R48, R79). -/
theorem press_of_bytes (b : List Byte) (tf : BitVec 32) (c : Coefs) :
    Claims.press (Claims.adc20 b) tf.toInt c = (compP (adc20 b) tf c).map BitVec.toNat := by
  rw [pressureFormula, toInt_adc20]

/-- Settles O30: the two ways `READ_PRESS` ends, by the divisor of its sample, with the frame of R22. -/
theorem readPressOutcome : Obligations.ReadPressOutcome := by
  refine ⟨decode_encode .readPress, fun s h => ?_⟩
  obtain ⟨b, st, w, v, w', hends, hlen, hdone, henv, hwcfg⟩ := readPress_ends h
  obtain ⟨hacc, -, -, -, -, hcfg, hhost⟩ := commandsWriteOnlyTheirRegisters .readPress _ _ hends.exec_eq
  obtain ⟨hreply, -⟩ := hends.answered
  have hresult := hends.result.trans (outcomeWord_failedOps_rd _ _ _ _ _ _)
  refine ⟨b, st, _, hreply, hlen, hends.exec_eq, hends.idle, hacc (by decide), hcfg, hhost, hends.bus, hends.history, ?_⟩
  rw [press_of_bytes]
  cases hcomp : compP (adc20 b) s.env.tFine s.env.coefs with
  | none =>
    rw [hcomp] at hdone
    cases hdone
    exact ⟨henv, hresult⟩
  | some p =>
    rw [hcomp] at hdone
    cases hdone
    exact ⟨by rw [← henv, ← hwcfg]; rfl, hresult⟩

end Sys2Proof.Machine
end

section
/-! PROOFS. The humidity decoder (spec/46_decode_humidity.md): `CompH` on plain integers (R82), what `READ_HUM` makes of its
one read (R81), and the bound on HUM for every input (R83). -/

namespace Sys2Proof.Machine

/-! ## `CompH` (R82) -/

theorem toInt_humV (tf : BitVec 32) : (humV tf).toInt = Claims.wrap 32 (tf.toInt - 76800) := by
  rw [humV, toInt_subS, ← Claims.wrap_eq_bmod (by decide)]
  rfl

theorem toInt_humX (adc v : BitVec 32) (h4 h5 : BitVec 16) :
    (humX adc v h4 h5).toInt =
      Claims.wrap 32 (Claims.wrap 32 (Claims.wrap 32 (Claims.wrap 32 (adc.toInt * 16384) -
        Claims.wrap 32 (h4.toInt * 1048576)) - Claims.wrap 32 (h5.toInt * v.toInt)) + 16384) / 32768 := by
  have hcoef (a : BitVec 16) : (sext 32 a).toInt = a.toInt := toInt_sext (by decide) (by decide) a
  simp only [humX, toInt_sra, toInt_addS, toInt_subS, toInt_shlS, toInt_mulS, hcoef,
    Claims.wrap_eq_bmod (n := 32) (by decide)]
  rfl

theorem toInt_humY (v : BitVec 32) (h2 : BitVec 16) (h3 h6 : BitVec 8) :
    (humY v h2 h3 h6).toInt =
      Claims.wrap 32 (Claims.wrap 32 (Claims.wrap 32 (Claims.wrap 32 (Claims.wrap 32 (v.toInt * h6.toInt) / 1024 *
        Claims.wrap 32 (Claims.wrap 32 (v.toInt * h3.toNat) / 2048 + 32768)) / 1024 + 2097152) * h2.toInt) + 8192) /
          16384 := by
  have h2ext : (sext 32 h2).toInt = h2.toInt := toInt_sext (by decide) (by decide) h2
  have h3ext : (zext 32 h3).toInt = h3.toNat := toInt_zext (by decide) h3
  have h6ext : (sext 32 h6).toInt = h6.toInt := toInt_sext (by decide) (by decide) h6
  simp only [humY, toInt_sra, toInt_addS, toInt_mulS, h2ext, h3ext, h6ext, Claims.wrap_eq_bmod (n := 32) (by decide)]
  rfl

theorem toInt_humZ (w : BitVec 32) (h1 : BitVec 8) :
    (humZ w h1).toInt =
      Claims.wrap 32 (Claims.wrap 32 (w.toInt / 32768 * (w.toInt / 32768)) / 128 * h1.toNat) / 16 := by
  have h1ext : (zext 32 h1).toInt = h1.toNat := toInt_zext (by decide) h1
  simp only [humZ, toInt_sra, toInt_mulS, h1ext, Claims.wrap_eq_bmod (n := 32) (by decide)]
  rfl

/-- Up to the clamp, the rule's named steps are the machine's (R82). -/
theorem toInt_humU (adc tf : BitVec 32) (c : Coefs) :
    (humU adc tf c).toInt = Claims.humBeforeClamp adc.toInt tf.toInt c.digH1.toNat c.digH2.toInt c.digH3.toNat
      c.digH4.toInt c.digH5.toInt c.digH6.toInt := by
  simp only [humU, toInt_subS, toInt_humZ, toInt_mulS, toInt_humX, toInt_humY, toInt_humV,
    ← Claims.wrap_eq_bmod (n := 32) (by decide), Claims.humBeforeClamp]

/-- `clamp` on the integers its operands stand for (R59). -/
theorem toInt_clampS {n : Nat} (a lo hi : BitVec n) :
    (clampS a lo hi).toInt =
      if a.toInt < lo.toInt then lo.toInt else if hi.toInt < a.toInt then hi.toInt else a.toInt := by
  rw [clampS, apply_ite BitVec.toInt, apply_ite BitVec.toInt]

/-- Settles O24: the same value before the clamp, then the clamp and the shift. -/
theorem humidityFormula : Obligations.HumidityFormula := by
  intro adc tf c
  rw [compH, toInt_sra, toInt_clampS, toInt_humU]
  rfl

/-! ## `READ_HUM` (R81) -/

/-- HUM is rounded once, from the exact quotient of the rule's `H_int` for the bytes' sample (R49, R81). -/
theorem humOutput_of_bytes (choice : FroundChoice) (b : List Byte) (tf : BitVec 32) (c : Coefs) :
    humOutput choice (compH (adcH b) tf c) = fround choice (mkRat (Claims.hum (Claims.adcH b) tf.toInt c) 1024) := by
  rw [humOutput, exactRatio, humidityFormula, toInt_adcH]

/-- `READ_HUM` ends with HUM, and nothing else of its handle, computed from its one read, whatever the read's status
(R81). -/
theorem readHum_ends {s : State} (h : Responsive s) :
    ∃ b st t, Ends .readHum s t .complete [.rd s.cfg.envAddr s.cfg.envRegHum 2 b st] ∧ b.length = 2 ∧
      t.env = { s.env with hum := humOutput s.cfg.fround (compH (adcH b) s.env.tFine s.env.coefs) } := by
  obtain ⟨b, st, w, v, w', hdone, hends, hlen, -, henv, hcfg⟩ :=
    sample_ends (i := .readHum) (fun _ => rfl) (fun _ _ => ⟨_, _, rfl, trivial, rfl, rfl, rfl, rfl, rfl, rfl⟩) h
  cases hdone
  exact ⟨b, st, _, hends, hlen, by rw [← henv, ← hcfg]; rfl⟩

/-- Settles O31: the one register `readHum_ends` writes, with the frame of R22 outside the handle. -/
theorem readHumOutcome : Obligations.ReadHumOutcome := by
  refine ⟨decode_encode .readHum, fun s h => ?_⟩
  obtain ⟨b, st, t, hends, hlen, henv⟩ := readHum_ends h
  obtain ⟨hacc, -, -, -, -, hcfg, hhost⟩ := commandsWriteOnlyTheirRegisters .readHum s t hends.exec_eq
  obtain ⟨hreply, -⟩ := hends.answered
  rw [humOutput_of_bytes] at henv
  exact ⟨b, st, t, hreply, hlen, hends.exec_eq, hends.idle, hacc (by decide), hcfg, hhost, henv,
    hends.result.trans (outcomeWord_failedOps_rd _ _ _ _ _ _), hends.bus, hends.history⟩

/-! ## The bound (R83) -/

/-- Percent relative humidity before rounding lies in 0 to 100 (R83). -/
theorem compH_ratio_range (adc tf : BitVec 32) (c : Coefs) :
    0 ≤ mkRat (compH adc tf c).toInt 1024 ∧ mkRat (compH adc tf c).toInt 1024 ≤ 100 := by
  obtain ⟨hlo, hhi⟩ := toInt_compH_range adc tf c
  have hlo' : (0 : Rat) ≤ (compH adc tf c).toInt := by exact_mod_cast hlo
  have hhi' : ((compH adc tf c).toInt : Rat) ≤ 102400 := by exact_mod_cast hhi
  rw [Rat.mkRat_eq_div]
  push_cast
  constructor <;> linarith

/-- Settles O51: what is monotone keeps the bounds of `H_int / 1024`, and the default keeps the quotient itself. -/
theorem humidityBound : Obligations.HumidityBound := by
  intro adc tf c
  obtain ⟨hlo, hhi⟩ := toInt_compH_range adc tf c
  obtain ⟨hzero, hhundred⟩ := compH_ratio_range adc tf c
  refine ⟨hlo, hhi, fun fr hmono => ⟨hmono _ _ hzero, hmono _ _ hhundred⟩,
    fun choice => ⟨froundIsMonotone choice _ _ hzero, froundIsMonotone choice _ _ hhundred⟩, ?_⟩
  rw [humidityOutputIsExact]
  exact ⟨hzero, hhundred⟩

end Sys2Proof.Machine
end

section
/-! PROOFS. Exceptions (spec/60_exceptions.md): with which verdict and how many failed operations each command can end, and
the values of `RESULT` that come of them (R87). -/

namespace Sys2Proof.Machine

/-! ## The ways a command can end (R87) -/

/-- The verdicts command `i` can end with, each with the number of failed operations it can have counted; `m` is the number
of mode writes. -/
inductive PossibleEnd (m : Nat) : Instr → Verdict → Nat → Prop
  | accInitialized {n : Nat} (h : n ≤ 2) : PossibleEnd m .initAcc .complete n
  | accMismatch {n : Nat} (h : n ≤ 1) : PossibleEnd m .initAcc .idMismatch n
  | envInitialized {n : Nat} (h : n ≤ 3 + m) : PossibleEnd m .initEnv .complete n
  | envMismatch {n : Nat} (h : n ≤ 1) : PossibleEnd m .initEnv .idMismatch n
  | envNotCalibrated {n : Nat} (hlo : 1 ≤ n) (hhi : n ≤ 4) : PossibleEnd m .initEnv .calFail n
  | loaded : PossibleEnd m .loadCal .complete 0
  | notLoaded : PossibleEnd m .loadCal .calFail 1
  | accDecoded {n : Nat} (h : n ≤ 1) : PossibleEnd m .readAcc .complete n
  | tempDecoded {n : Nat} (h : n ≤ 1) : PossibleEnd m .readTemp .complete n
  | pressDecoded {n : Nat} (h : n ≤ 1) : PossibleEnd m .readPress .complete n
  | zeroDivisor {n : Nat} (h : n ≤ 1) : PossibleEnd m .readPress .computeErr n
  | humDecoded {n : Nat} (h : n ≤ 1) : PossibleEnd m .readHum .complete n

/-- With failures to report, and no more of them than 8 bits hold, `RESULT` is the table's `0x0100*k + 1` under the verdict's
flag (R16, R87). -/
theorem toNat_resultWord_of_failed (v : Verdict) {n : Nat} (hpos : 1 ≤ n) (hlt : n < 256) :
    (resultWord v n).toNat = 256 * n + (verdictFlag v + 1) := by
  rw [toNat_resultWord, transportFlag, if_neg (by omega)]
  omega

/-- Under R7 the words of the possible ends are those of R87's table. -/
theorem possibleResult_resultWord {m n : Nat} {i : Instr} {v : Verdict} (hm : m ≤ 16) (h : PossibleEnd m i v n) :
    possibleResult m i (resultWord v n) := by
  cases h with
  | envInitialized h =>
    rcases Nat.eq_zero_or_pos n with rfl | hpos
    · exact .inl (by decide)
    · exact .inr (.inl ⟨n, hpos, h, toNat_resultWord_of_failed .complete hpos (by omega)⟩)
  | envNotCalibrated hlo hhi => exact .inr (.inr ⟨n, hlo, hhi, toNat_resultWord_of_failed .calFail hlo (by omega)⟩)
  | envMismatch h => exact .inl (by interval_cases n <;> decide)
  | loaded | notLoaded =>
    simp only [possibleResult]
    decide
  | accInitialized h | accMismatch h | accDecoded h | tempDecoded h | pressDecoded h | zeroDivisor h | humDecoded h =>
    simp only [possibleResult]
    interval_cases n <;> decide

/-! ## The count on the way to an end -/

/-- Inside a command under parameters `p`, at most `n` operations have failed so far. -/
structure Work.FailedAtMost (w : Work) (p : Params) (n : Nat) : Prop where
  cfg : w.state.cfg = p
  le : w.failed ≤ n

section
variable {w : Work} {p : Params} {n : Nat}

/-- At most every event a part issues fails (R63 b). -/
theorem Run.Issues.failedAtMost {α : Type} {r : Run α} {ok : Event → Prop} {k : Nat} (h : r.Issues w ok k)
    (hw : w.FailedAtMost p n) : r.Ensures fun _ w' => w'.FailedAtMost p (n + k) := by
  obtain ⟨evs, ht, -, hlen⟩ := h
  obtain ⟨hcfg, hfailed⟩ := hw
  rintro a w' rfl
  have hcount : w'.failed = w.failed + failedOps evs := ht.failed
  have hle : failedOps evs ≤ evs.length := failedOps_le_length evs
  exact ⟨ht.cfg.trans hcfg, by omega⟩

variable (hw : w.FailedAtMost p n)
include hw

theorem memRead_failedAtMost (dev : DevAddr) (reg : RegOffset) (len : Nat) :
    (memRead w dev reg len).Ensures fun _ w' => w'.FailedAtMost p (n + 1) :=
  (memRead_issues (ok := fun _ => True) fun _ _ _ => trivial).failedAtMost hw

theorem memWrite_failedAtMost (dev : DevAddr) (reg : RegOffset) (v : Byte) :
    (memWrite w dev reg v).Ensures fun _ w' => w'.FailedAtMost p (n + 1) :=
  (memWrite_issues (ok := fun _ => True) fun _ => trivial).failedAtMost hw

theorem memWriteAll_failedAtMost (dev : DevAddr) (l : List (RegOffset × Byte)) :
    (memWriteAll dev l w).Ensures fun _ w' => w'.FailedAtMost p (n + l.length) :=
  (memWriteAll_issues (ok := fun _ => True) fun _ _ _ => trivial).failedAtMost hw

theorem identityCheck_failedAtMost (dev : DevAddr) (reg : RegOffset) (expected : Byte) :
    (identityCheck w dev reg expected).Ensures fun _ w' => w'.FailedAtMost p (n + 1) :=
  (identityCheck_issues (ok := fun _ => True) fun _ _ _ => trivial).failedAtMost hw

/-- Of the three events of steps 2 and 3 of `INIT_ENV` the delay cannot fail (R26, R65). -/
theorem initEnvConfigure_failedAtMost : (initEnvConfigure w).Ensures fun _ w' => w'.FailedAtMost p (n + 1 + 1) :=
  (memWrite_failedAtMost hw _ _ _).andThen fun _ w1 hw1 =>
    memWrite_failedAtMost (w := waitMs w1 Config.envResetDelay) ⟨hw1.cfg, hw1.le⟩ _ _ _

end

/-- The loader stops at its first failed read, so it counts none or one (R70). -/
theorem calLoad_failed (w : Work) : (calLoad w).Ensures fun ok w' =>
    w'.state.cfg = w.state.cfg ∧ w'.failed = w.failed + if ok then 0 else 1 := by
  rcases calLoad_trace w with ⟨w1, -, hs, -⟩ | ⟨bt, w1, hd, ht, -⟩ | ⟨bt, bh, st, w1, hd, ht, -⟩
  · simp [Run.Ensures, hs]
  · rw [hd]
    exact .done ⟨ht.cfg, ht.failed⟩
  · rw [hd]
    cases st with
    | fail => exact .done ⟨ht.cfg, ht.failed⟩
    | ok => exact .done ⟨ht.cfg, ht.failed⟩

/-- `INIT_ENV` gets to its loader with at most three failures: the loader's one ends it, and without that the mode writes
can each add one (R65). -/
theorem initEnvCalibrate_possibleEnd {w : Work} {p : Params} (hw : w.FailedAtMost p 3) :
    (initEnvCalibrate w).Ensures fun v w' => PossibleEnd p.envModeWrites.length .initEnv v w'.failed := by
  obtain ⟨rfl, hle⟩ := hw
  refine (calLoad_failed w).andThen fun ok w1 ⟨hcfg, hfailed⟩ => ?_
  cases ok with
  | false =>
    have hone : w1.failed = w.failed + 1 := hfailed
    exact .done (.envNotCalibrated (by omega) (by omega))
  | true =>
    have hw1 : w1.FailedAtMost w.state.cfg 3 := ⟨hcfg, hfailed.trans_le hle⟩
    refine (memWriteAll_failedAtMost hw1 _ _).andThen fun _ w2 ⟨_, hall⟩ => .done (.envInitialized ?_)
    rwa [← hcfg]

/-- Whatever the transport answers, a command that comes to its end does so in one of its possible ways (R87). -/
theorem commandBody_possibleEnd (i : Instr) {w : Work} (h : w.failed = 0) :
    (commandBody i w).Ensures fun v w' => PossibleEnd w.state.cfg.envModeWrites.length i v w'.failed := by
  have hw : w.FailedAtMost w.state.cfg 0 := ⟨rfl, h.le⟩
  cases i with
  | initAcc =>
    refine (identityCheck_failedAtMost hw _ _ _).andThen fun isExpected w1 hw1 => ?_
    cases isExpected with
    | false => exact .done (.accMismatch hw1.le)
    | true => exact (memWrite_failedAtMost hw1 _ _ _).andThen fun _ w2 ⟨_, hle⟩ => .done (.accInitialized hle)
  | readAcc => exact (memRead_failedAtMost hw _ _ _).andThen fun _ w1 ⟨_, hle⟩ => .done (.accDecoded hle)
  | readTemp => exact (memRead_failedAtMost hw _ _ _).andThen fun _ w1 ⟨_, hle⟩ => .done (.tempDecoded hle)
  | readHum => exact (memRead_failedAtMost hw _ _ _).andThen fun _ w1 ⟨_, hle⟩ => .done (.humDecoded hle)
  | readPress =>
    refine (memRead_failedAtMost hw _ _ _).andThen fun r w1 ⟨_, hle⟩ => ?_
    cases compP (adc20 r.1) w1.state.env.tFine w1.state.env.coefs with
    | none => exact .done (.zeroDivisor hle)
    | some p => exact .done (.pressDecoded hle)
  | loadCal =>
    refine (calLoad_failed w).andThen fun ok w1 ⟨_, hfailed⟩ => .done ?_
    rw [hfailed, h]
    cases ok with
    | false => exact .notLoaded
    | true => exact .loaded
  | initEnv =>
    refine (identityCheck_failedAtMost hw _ _ _).andThen fun isExpected w1 hw1 => ?_
    cases isExpected with
    | false => exact .done (.envMismatch hw1.le)
    | true => exact (initEnvConfigure_failedAtMost hw1).andThen fun _ w2 hw2 => initEnvCalibrate_possibleEnd hw2

/-- A command that leaves the engine IDLE is not stuck: its steps came to a verdict, and `endCommand` reports it (R10). -/
theorem exec_done_of_idle {i : Instr} {s t : State} (h : exec i s = .next t) (hidle : t.activity = .idle) :
    ∃ v w, commandBody i (beginCommand s) = .done v w ∧ t = endCommand v w := by
  rw [exec_eq_runCommand] at h
  cases h
  rcases runCommand_cases (commandBody i) s with hdone | ⟨w, hbody, hrun⟩
  · exact hdone
  · obtain ⟨evs, ht, -⟩ := commandBody_issues i (beginCommand s)
    have hbusy : (commandBody i (beginCommand s)).work.state.activity = .busy := ht.activity
    rw [hbody, Run.work, ← hrun, hidle] at hbusy
    cases hbusy

/-- Settles O38: a command ends in a possible way, and R7's bound on the mode writes keeps its count in `ERRCNT`; an illegal
word has nothing to count. -/
theorem resultValuesAreTheTabulated : Obligations.ResultValuesAreTheTabulated := by
  refine ⟨fun i s t hwf h hidle => ?_, fun _ => (by decide : resultWord .illegalCmd 0 = 0x0010#16)⟩
  obtain ⟨v, w, hbody, rfl⟩ := exec_done_of_idle h hidle
  obtain ⟨-, -, -, -, -, -, -, -, -, hmodes⟩ := s.cfg.wf_iff.1 hwf
  rw [endCommand_result]
  exact possibleResult_resultWord hmodes (commandBody_possibleEnd i (beginCommand_failed s) v w hbody)

end Sys2Proof.Machine
end

section
/-! PROOFS. Reset and hazards (spec/70_reset_and_hazards.md): an engine whose host makes no move (R98; log 14). -/

namespace Sys2Proof.Machine

theorem turn_of_no_move {s : State} (h : s.activity = .idle) (hp : s.host.pending = []) : turn s = .next s := by
  simp [turn, h, hp]

/-- Settles O6: under good parameters a step is the engine's turn, and an IDLE engine's turn without a move is to wait. -/
theorem idleEngineWaits : Obligations.IdleEngineWaits := by
  intro s hwf hidle hp
  rw [step, if_pos hwf, turn_of_no_move hidle hp]

end Sys2Proof.Machine
end
